-- ==== Sys2Proof/Word.lean ====
section
/-! DEFINITION. The word types of the core (spec 00_scope.md R5, R6, R7): every quantity is unsigned. -/

namespace Sys2Proof

/-- A general register, a timer or one element of main memory: 8 bits (R5, R21, R23, R29). -/
abbrev Byte := BitVec 8

/-- The index register, the program counter, a return address or a fetched opcode: 16 bits (R5, R9). -/
abbrev Word16 := BitVec 16

/-- A register field `x` or `y`, a row count `n`, or `wait_x`: 4 bits (R92, R34). -/
abbrev Nibble := BitVec 4

/-- The address immediate `nnn`: 12 bits (R92). -/
abbrev Addr12 := BitVec 12

/-- `MEM_SIZE`: addresses run from 0 to 4095 (R5, R61). -/
abbrev memSize : Nat := 4096

end Sys2Proof
end

