-- ==== Sys2Proof/Syntax.lean ====
section
/-! DEFINITION. The 34 instructions, one constructor per row of spec/opcode_table.json (30_encoding.md R95), and their customary
spelling. -/

namespace Sys2Proof

/-- An instruction with the fields its format has (R91, R92). The constructors carry readable names, since DOC0's
patterns are no Lean names; each docstring gives the pattern, which is what names the instruction (R101). -/
inductive Instr where
  /-- `00E0`: clear the display (R210). -/
  | cls
  /-- `00EE`: return from subroutine (R140). -/
  | ret
  /-- `1NNN`: jump (R141). -/
  | jp (nnn : Addr12)
  /-- `2NNN`: call subroutine (R142). -/
  | call (nnn : Addr12)
  /-- `3XNN`: skip if `Vx = nn` (R144). -/
  | seImm (x : Nibble) (nn : Byte)
  /-- `4XNN`: skip if `Vx ≠ nn` (R145). -/
  | sneImm (x : Nibble) (nn : Byte)
  /-- `5XY0`: skip if `Vx = Vy` (R146). -/
  | seReg (x y : Nibble)
  /-- `6XNN`: load immediate (R160). -/
  | ldImm (x : Nibble) (nn : Byte)
  /-- `7XNN`: add immediate, no flag (R161). -/
  | addImm (x : Nibble) (nn : Byte)
  /-- `8XY0`: copy register (R162). -/
  | ldReg (x y : Nibble)
  /-- `8XY1`: bitwise OR (R163). -/
  | orReg (x y : Nibble)
  /-- `8XY2`: bitwise AND (R164). -/
  | andReg (x y : Nibble)
  /-- `8XY3`: bitwise exclusive OR (R165). -/
  | xorReg (x y : Nibble)
  /-- `8XY4`: add with carry out (R166). -/
  | addReg (x y : Nibble)
  /-- `8XY5`: `Vx - Vy` with no-borrow out (R167). -/
  | subReg (x y : Nibble)
  /-- `8XY6`: shift right by one; `y` is held but ignored (R168, R99). -/
  | shr (x y : Nibble)
  /-- `8XY7`: `Vy - Vx` with no-borrow out (R169). -/
  | subn (x y : Nibble)
  /-- `8XYE`: shift left by one; `y` is held but ignored (R170, R99). -/
  | shl (x y : Nibble)
  /-- `9XY0`: skip if `Vx ≠ Vy` (R147). -/
  | sneReg (x y : Nibble)
  /-- `ANNN`: load the index register (R190). -/
  | ldIndex (nnn : Addr12)
  /-- `BNNN`: jump to `V0 + nnn` (R143). -/
  | jpV0 (nnn : Addr12)
  /-- `CXNN`: masked random byte (R183). -/
  | rnd (x : Nibble) (nn : Byte)
  /-- `DXYN`: draw a sprite of `n` rows, detect collision (R211). -/
  | drw (x y n : Nibble)
  /-- `EX9E`: skip if key `Vx` is pressed (R220). -/
  | skp (x : Nibble)
  /-- `EXA1`: skip if key `Vx` is not pressed (R221). -/
  | sknp (x : Nibble)
  /-- `FX07`: read the delay timer (R223). -/
  | ldFromDelay (x : Nibble)
  /-- `FX0A`: wait for a key press (R226). -/
  | waitKey (x : Nibble)
  /-- `FX15`: set the delay timer (R224). -/
  | setDelay (x : Nibble)
  /-- `FX18`: set the sound timer (R225). -/
  | setSound (x : Nibble)
  /-- `FX1E`: add register to index (R191). -/
  | addIndex (x : Nibble)
  /-- `FX29`: point the index register at a glyph (R192). -/
  | ldGlyph (x : Nibble)
  /-- `FX33`: store the decimal digits of `Vx` (R193). -/
  | storeBcd (x : Nibble)
  /-- `FX55`: store registers `V0..Vx` (R194). -/
  | storeRegs (x : Nibble)
  /-- `FX65`: load registers `V0..Vx` (R195). -/
  | loadRegs (x : Nibble)
  deriving DecidableEq, Repr

/-- The customary assembler spelling of each instruction, the "asm" column of R95 (R101). It carries no semantics; the
pattern is the instruction's name (log 22). -/
def Instr.alias : Instr → String
  | .cls => "CLS"
  | .ret => "RET"
  | .jp _ => "JP nnn"
  | .call _ => "CALL nnn"
  | .seImm _ _ => "SE Vx, nn"
  | .sneImm _ _ => "SNE Vx, nn"
  | .seReg _ _ => "SE Vx, Vy"
  | .ldImm _ _ => "LD Vx, nn"
  | .addImm _ _ => "ADD Vx, nn"
  | .ldReg _ _ => "LD Vx, Vy"
  | .orReg _ _ => "OR Vx, Vy"
  | .andReg _ _ => "AND Vx, Vy"
  | .xorReg _ _ => "XOR Vx, Vy"
  | .addReg _ _ => "ADD Vx, Vy"
  | .subReg _ _ => "SUB Vx, Vy"
  | .shr _ _ => "SHR Vx"
  | .subn _ _ => "SUBN Vx, Vy"
  | .shl _ _ => "SHL Vx"
  | .sneReg _ _ => "SNE Vx, Vy"
  | .ldIndex _ => "LD I, nnn"
  | .jpV0 _ => "JP V0, nnn"
  | .rnd _ _ => "RND Vx, nn"
  | .drw _ _ _ => "DRW Vx, Vy, n"
  | .skp _ => "SKP Vx"
  | .sknp _ => "SKNP Vx"
  | .ldFromDelay _ => "LD Vx, DT"
  | .waitKey _ => "LD Vx, K"
  | .setDelay _ => "LD DT, Vx"
  | .setSound _ => "LD ST, Vx"
  | .addIndex _ => "ADD I, Vx"
  | .ldGlyph _ => "LD F, Vx"
  | .storeBcd _ => "LD B, Vx"
  | .storeRegs _ => "LD [I], Vx"
  | .loadRegs _ => "LD Vx, [I]"

end Sys2Proof
end

