-- ==== Sys2Proof/WellFormed.lean ====
section
/-! DEFINITION. The opcode map of 30_encoding.md R95 as masks and matches, and which words are legal (R95, R96).

Every TERM of `Instr` is well formed: each field's type is exactly the range of the field (R92, R93: "every value of a
register field is valid"), so there is no check to fail on a term. What can be ill formed is a word. -/

namespace Sys2Proof

/-- One row of the opcode map: a word `op` is the row's instruction if and only if `op &&& mask = bits` (R95). -/
structure Row where
  pattern : String
  mask : Word16
  bits : Word16
  deriving DecidableEq, Repr

/-- The row of each instruction, as R95's table gives its pattern, mask and match. -/
def Instr.row : Instr → Row
  | .cls => ⟨"00E0", 0xFFFF, 0x00E0⟩
  | .ret => ⟨"00EE", 0xFFFF, 0x00EE⟩
  | .jp _ => ⟨"1NNN", 0xF000, 0x1000⟩
  | .call _ => ⟨"2NNN", 0xF000, 0x2000⟩
  | .seImm _ _ => ⟨"3XNN", 0xF000, 0x3000⟩
  | .sneImm _ _ => ⟨"4XNN", 0xF000, 0x4000⟩
  | .seReg _ _ => ⟨"5XY0", 0xF00F, 0x5000⟩
  | .ldImm _ _ => ⟨"6XNN", 0xF000, 0x6000⟩
  | .addImm _ _ => ⟨"7XNN", 0xF000, 0x7000⟩
  | .ldReg _ _ => ⟨"8XY0", 0xF00F, 0x8000⟩
  | .orReg _ _ => ⟨"8XY1", 0xF00F, 0x8001⟩
  | .andReg _ _ => ⟨"8XY2", 0xF00F, 0x8002⟩
  | .xorReg _ _ => ⟨"8XY3", 0xF00F, 0x8003⟩
  | .addReg _ _ => ⟨"8XY4", 0xF00F, 0x8004⟩
  | .subReg _ _ => ⟨"8XY5", 0xF00F, 0x8005⟩
  | .shr _ _ => ⟨"8XY6", 0xF00F, 0x8006⟩
  | .subn _ _ => ⟨"8XY7", 0xF00F, 0x8007⟩
  | .shl _ _ => ⟨"8XYE", 0xF00F, 0x800E⟩
  | .sneReg _ _ => ⟨"9XY0", 0xF00F, 0x9000⟩
  | .ldIndex _ => ⟨"ANNN", 0xF000, 0xA000⟩
  | .jpV0 _ => ⟨"BNNN", 0xF000, 0xB000⟩
  | .rnd _ _ => ⟨"CXNN", 0xF000, 0xC000⟩
  | .drw _ _ _ => ⟨"DXYN", 0xF000, 0xD000⟩
  | .skp _ => ⟨"EX9E", 0xF0FF, 0xE09E⟩
  | .sknp _ => ⟨"EXA1", 0xF0FF, 0xE0A1⟩
  | .ldFromDelay _ => ⟨"FX07", 0xF0FF, 0xF007⟩
  | .waitKey _ => ⟨"FX0A", 0xF0FF, 0xF00A⟩
  | .setDelay _ => ⟨"FX15", 0xF0FF, 0xF015⟩
  | .setSound _ => ⟨"FX18", 0xF0FF, 0xF018⟩
  | .addIndex _ => ⟨"FX1E", 0xF0FF, 0xF01E⟩
  | .ldGlyph _ => ⟨"FX29", 0xF0FF, 0xF029⟩
  | .storeBcd _ => ⟨"FX33", 0xF0FF, 0xF033⟩
  | .storeRegs _ => ⟨"FX55", 0xF0FF, 0xF055⟩
  | .loadRegs _ => ⟨"FX65", 0xF0FF, 0xF065⟩

/-- The row selects the word (R95). -/
def Row.selects (r : Row) (op : Word16) : Bool :=
  (op &&& r.mask) == r.bits

/-- One instruction of each row, in the table's order: classes `0x0` to `0x7`. -/
def rowInstrsA : List Instr :=
  [.cls, .ret, .jp 0, .call 0, .seImm 0 0, .sneImm 0 0, .seReg 0 0, .ldImm 0 0, .addImm 0 0]

/-- One instruction of each row of class `0x8`. -/
def rowInstrsB : List Instr :=
  [.ldReg 0 0, .orReg 0 0, .andReg 0 0, .xorReg 0 0, .addReg 0 0, .subReg 0 0, .shr 0 0, .subn 0 0, .shl 0 0]

/-- One instruction of each row of classes `0x9` to `0xF`. -/
def rowInstrsC : List Instr :=
  [.sneReg 0 0, .ldIndex 0, .jpV0 0, .rnd 0 0, .drw 0 0 0, .skp 0, .sknp 0, .ldFromDelay 0, .waitKey 0,
   .setDelay 0, .setSound 0, .addIndex 0, .ldGlyph 0, .storeBcd 0, .storeRegs 0, .loadRegs 0]

/-- The 34 rows of R95, in the table's order. -/
def opcodeMap : List Row :=
  (rowInstrsA ++ rowInstrsB ++ rowInstrsC).map Instr.row

/-- A word is legal when a row of the opcode map selects it; every other word is illegal (R96). -/
def legalWord (op : Word16) : Bool :=
  opcodeMap.any fun r => r.selects op

end Sys2Proof
end

