-- ==== Sys2Proof/Decode.lean ====
section
/-! DEFINITION. The decoder (30_encoding.md R92, R94, R97, R98; 40_step_engine.md R123) and, after it, the encoder
written from the format tables of R91. -/

namespace Sys2Proof

/-- Why bytes are no instruction: too few of them, or a word of the illegal space (R96), which is named. -/
inductive DecodeError where
  | truncated
  | unknownOpcode (op : Word16)
  deriving DecidableEq, Repr

/-- `class`: bits 15:12 of the opcode (R92). -/
def fieldClass (op : Word16) : Nibble := op.extractLsb' 12 4

/-- `x`: bits 11:8 of the opcode (R92). -/
def fieldX (op : Word16) : Nibble := op.extractLsb' 8 4

/-- `y`: bits 7:4 of the opcode (R92). -/
def fieldY (op : Word16) : Nibble := op.extractLsb' 4 4

/-- `n`: bits 3:0 of the opcode (R92). -/
def fieldN (op : Word16) : Nibble := op.extractLsb' 0 4

/-- `nn`: bits 7:0 of the opcode (R92). -/
def fieldNN (op : Word16) : Byte := op.extractLsb' 0 8

/-- `nnn`: bits 11:0 of the opcode (R92). -/
def fieldNNN (op : Word16) : Addr12 := op.extractLsb' 0 12

/-- Class `0x0` is an exact match of the whole word (R97). -/
def decodeClass0 (op : Word16) : Except DecodeError Instr :=
  if op = 0x00E0 then .ok .cls
  else if op = 0x00EE then .ok .ret
  else .error (.unknownOpcode op)

/-- Class `0x8` is selected by `n` (R94). -/
def decodeClass8 (op : Word16) : Except DecodeError Instr :=
  match (fieldN op).toNat with
  | 0x0 => .ok (.ldReg (fieldX op) (fieldY op))
  | 0x1 => .ok (.orReg (fieldX op) (fieldY op))
  | 0x2 => .ok (.andReg (fieldX op) (fieldY op))
  | 0x3 => .ok (.xorReg (fieldX op) (fieldY op))
  | 0x4 => .ok (.addReg (fieldX op) (fieldY op))
  | 0x5 => .ok (.subReg (fieldX op) (fieldY op))
  | 0x6 => .ok (.shr (fieldX op) (fieldY op))
  | 0x7 => .ok (.subn (fieldX op) (fieldY op))
  | 0xE => .ok (.shl (fieldX op) (fieldY op))
  | _ => .error (.unknownOpcode op)

/-- Class `0xE` is selected by `nn` (R94). -/
def decodeClassE (op : Word16) : Except DecodeError Instr :=
  if fieldNN op = 0x9E then .ok (.skp (fieldX op))
  else if fieldNN op = 0xA1 then .ok (.sknp (fieldX op))
  else .error (.unknownOpcode op)

/-- Class `0xF` is selected by `nn` (R94). -/
def decodeClassF (op : Word16) : Except DecodeError Instr :=
  if fieldNN op = 0x07 then .ok (.ldFromDelay (fieldX op))
  else if fieldNN op = 0x0A then .ok (.waitKey (fieldX op))
  else if fieldNN op = 0x15 then .ok (.setDelay (fieldX op))
  else if fieldNN op = 0x18 then .ok (.setSound (fieldX op))
  else if fieldNN op = 0x1E then .ok (.addIndex (fieldX op))
  else if fieldNN op = 0x29 then .ok (.ldGlyph (fieldX op))
  else if fieldNN op = 0x33 then .ok (.storeBcd (fieldX op))
  else if fieldNN op = 0x55 then .ok (.storeRegs (fieldX op))
  else if fieldNN op = 0x65 then .ok (.loadRegs (fieldX op))
  else .error (.unknownOpcode op)

/-- Decode one opcode: dispatch on the class nibble, then on the sub-selector of classes `0x0`, `0x8`, `0xE`, `0xF`, and
on `n = 0` in classes `0x5` and `0x9` (R94, R98). It reads nothing but the word (R123). -/
def decodeWord (op : Word16) : Except DecodeError Instr :=
  match (fieldClass op).toNat with
  | 0x0 => decodeClass0 op
  | 0x1 => .ok (.jp (fieldNNN op))
  | 0x2 => .ok (.call (fieldNNN op))
  | 0x3 => .ok (.seImm (fieldX op) (fieldNN op))
  | 0x4 => .ok (.sneImm (fieldX op) (fieldNN op))
  | 0x5 => if fieldN op = 0 then .ok (.seReg (fieldX op) (fieldY op)) else .error (.unknownOpcode op)
  | 0x6 => .ok (.ldImm (fieldX op) (fieldNN op))
  | 0x7 => .ok (.addImm (fieldX op) (fieldNN op))
  | 0x8 => decodeClass8 op
  | 0x9 => if fieldN op = 0 then .ok (.sneReg (fieldX op) (fieldY op)) else .error (.unknownOpcode op)
  | 0xA => .ok (.ldIndex (fieldNNN op))
  | 0xB => .ok (.jpV0 (fieldNNN op))
  | 0xC => .ok (.rnd (fieldX op) (fieldNN op))
  | 0xD => .ok (.drw (fieldX op) (fieldY op) (fieldN op))
  | 0xE => decodeClassE op
  | _ => decodeClassF op

/-- The opcode two consecutive bytes make: big-endian, the byte at the lower address holds bits 15:8 (R62, R90). -/
def opcodeOfBytes (hi lo : Byte) : Word16 := hi ++ lo

/-- Decode the first instruction of a byte sequence and give back the bytes after it; every instruction takes two
(R90). -/
def decodeBytes : List Byte → Except DecodeError (Instr × List Byte)
  | hi :: lo :: rest =>
    match decodeWord (opcodeOfBytes hi lo) with
    | .ok i => .ok (i, rest)
    | .error e => .error e
  | _ => .error .truncated

/-- Format `ADDR` (R91): class and `nnn`. -/
def formatAddr (cls : Nibble) (nnn : Addr12) : Word16 := cls ++ nnn

/-- Format `RIMM` (R91): class, `x` and `nn`. Format `RSUB` is the same layout with `nn` fixed. -/
def formatRimm (cls x : Nibble) (nn : Byte) : Word16 := cls ++ x ++ nn

/-- Format `RR` (R91): class, `x`, `y` and the sub-selector. Format `DRAW` is the same layout with `n` an operand. -/
def formatRr (cls x y n : Nibble) : Word16 := cls ++ x ++ y ++ n

/-- The word of an instruction, from the formats of R91 and the patterns of R95. -/
def encode : Instr → Word16
  | .cls => 0x00E0
  | .ret => 0x00EE
  | .jp nnn => formatAddr 0x1 nnn
  | .call nnn => formatAddr 0x2 nnn
  | .seImm x nn => formatRimm 0x3 x nn
  | .sneImm x nn => formatRimm 0x4 x nn
  | .seReg x y => formatRr 0x5 x y 0x0
  | .ldImm x nn => formatRimm 0x6 x nn
  | .addImm x nn => formatRimm 0x7 x nn
  | .ldReg x y => formatRr 0x8 x y 0x0
  | .orReg x y => formatRr 0x8 x y 0x1
  | .andReg x y => formatRr 0x8 x y 0x2
  | .xorReg x y => formatRr 0x8 x y 0x3
  | .addReg x y => formatRr 0x8 x y 0x4
  | .subReg x y => formatRr 0x8 x y 0x5
  | .shr x y => formatRr 0x8 x y 0x6
  | .subn x y => formatRr 0x8 x y 0x7
  | .shl x y => formatRr 0x8 x y 0xE
  | .sneReg x y => formatRr 0x9 x y 0x0
  | .ldIndex nnn => formatAddr 0xA nnn
  | .jpV0 nnn => formatAddr 0xB nnn
  | .rnd x nn => formatRimm 0xC x nn
  | .drw x y n => formatRr 0xD x y n
  | .skp x => formatRimm 0xE x 0x9E
  | .sknp x => formatRimm 0xE x 0xA1
  | .ldFromDelay x => formatRimm 0xF x 0x07
  | .waitKey x => formatRimm 0xF x 0x0A
  | .setDelay x => formatRimm 0xF x 0x15
  | .setSound x => formatRimm 0xF x 0x18
  | .addIndex x => formatRimm 0xF x 0x1E
  | .ldGlyph x => formatRimm 0xF x 0x29
  | .storeBcd x => formatRimm 0xF x 0x33
  | .storeRegs x => formatRimm 0xF x 0x55
  | .loadRegs x => formatRimm 0xF x 0x65

/-- The two bytes of an instruction as memory holds them, lower address first: high byte, then low byte (R62). -/
def encodeBytes (i : Instr) : List Byte :=
  [(encode i).extractLsb' 8 8, (encode i).extractLsb' 0 8]

/-- The bytes of an opcode-table word: the table's bits 15..8 at the lower address, its bits 7..0 after them (R62), the
bits above `nbits` zero. -/
def tableBytes (nbits w : Nat) : List Byte :=
  [BitVec.ofNat 8 (w % 2 ^ nbits / 256), BitVec.ofNat 8 (w % 2 ^ nbits)]

/-- What the decoder reads from an opcode-table word of `nbits` bits. -/
def decodeTableWord (nbits w : Nat) : Option Instr :=
  match decodeBytes (tableBytes nbits w) with
  | .ok (i, _) => some i
  | .error _ => none

end Sys2Proof
end

