-- ==== Sys2Proof/Config.lean ====
section
/-! DEFINITION. The parameters of the core (00_scope.md R5) and the free values: what the spec leaves open, as opaque
constants of which no proof can know a value. -/

namespace Sys2Proof

/-- `ENTRY`, the load address and the reset value of `pc`: open in the spec (D1), here its default `0x200`.
DESIGN CHOICE (log 1), unsafe. `State.resetWith` takes any other. -/
def Config.entry : Nat := 0x200

/-- The default glyph bytes of 10_state.md R27, digit 0 first, rows top to bottom. -/
def Config.glyphs : List (List Byte) :=
  [[0xF0, 0x90, 0x90, 0x90, 0xF0], [0x20, 0x60, 0x20, 0x20, 0x70], [0xF0, 0x10, 0xF0, 0x80, 0xF0],
   [0xF0, 0x10, 0xF0, 0x10, 0xF0], [0x90, 0x90, 0xF0, 0x10, 0x10], [0xF0, 0x80, 0xF0, 0x10, 0xF0],
   [0xF0, 0x80, 0xF0, 0x90, 0xF0], [0xF0, 0x10, 0x20, 0x40, 0x40], [0xF0, 0x90, 0xF0, 0x90, 0xF0],
   [0xF0, 0x90, 0xF0, 0x10, 0xF0], [0xF0, 0x90, 0xF0, 0x90, 0x90], [0xE0, 0x90, 0xE0, 0x90, 0xE0],
   [0xF0, 0x80, 0x80, 0x80, 0xF0], [0xE0, 0x90, 0x90, 0x90, 0xE0], [0xF0, 0x80, 0xF0, 0x80, 0xF0],
   [0xF0, 0x80, 0xF0, 0x80, 0x80]]

/-- `FONT`, the 80 bytes of the font table: open in the spec (D2), here the default of R27, which the spec marks as
general knowledge. PRESUMED (log 2), unsafe. `State.resetWith` takes any other. -/
def Config.font : Vector Byte 80 := ⟨Config.glyphs.flatten.toArray, rfl⟩

/-- The random byte of the `n`-th draw: any value, under no law (R183, D20; log 5). -/
opaque Config.draw : Nat → Byte

/-! The components of the state after the `n`-th free value when a fault voids it: "must be treated as undefined"
(60_exceptions.md R244; log 6). -/

/-- The byte at each address of the void memory. -/
opaque Config.voidByte : Nat → Nat → Byte

/-- The void general registers. -/
opaque Config.voidRegs : Nat → Vector Byte 16

/-- The void index register. -/
opaque Config.voidIndex : Nat → Word16

/-- The void program counter. -/
opaque Config.voidPc : Nat → Word16

/-- The void call-stack depth. -/
opaque Config.voidDepth : Nat → Fin 17

/-- The void call-stack slots. -/
opaque Config.voidStack : Nat → Vector Word16 16

/-- The void delay timer. -/
opaque Config.voidDelay : Nat → Byte

/-- The void sound timer. -/
opaque Config.voidSound : Nat → Byte

/-- The void display. -/
opaque Config.voidDisp : Nat → Vector (BitVec 64) 32

/-- The void dirty flag. -/
opaque Config.voidDirty : Nat → Bool

/-- The void key flags. -/
opaque Config.voidKeys : Nat → Vector Bool 16

/-- The void `wait_x`. -/
opaque Config.voidWaitX : Nat → Nibble

end Sys2Proof
end

