-- ==== Sys2Proof/Machine/State.lean ====
section
/-! DEFINITION. The state of the core (10_state.md R20), its faults and refusals, and the state after reset (R40). -/

namespace Sys2Proof.Machine

/-- Main memory: address and byte pairs, addresses strictly rising and below 4096, no pair equal to what an unlisted
address reads as (`Memory.wf`, `Memory.unlisted` in Machine/Ops.lean). -/
abbrev Memory := List Host.Cell

/-- The display buffer: row `y` of 32, in which bit `x` of 64 is the pixel `disp[x][y]` (R30; log 18). -/
abbrev Display := Vector (BitVec 64) 32

/-- The executor's state machine (R33); `faulted` is the spec's own third value (D15). -/
inductive RunState where
  | running
  | waitingForKey
  | faulted
  deriving DecidableEq, Repr

/-- The four fatal errors (60_exceptions.md R240), each with its record: the opcode, absent for a fault raised by the
fetch itself, and the program counter at fetch time. A fault is TAKEN (R244): the machine enters the `faulted` run state
with the fault in its `fault` field, so `step` answers a next state and never `Outcome.fault` (log 7, safe). -/
inductive Fault where
  /-- Raised by Step when the fetched word is no instruction (R241). Safe: the spec's own. -/
  | unknownOpcode (op : Word16) (pc0 : Word16)
  /-- Raised by the fetch, `DXYN`, `FX33`, `FX55`, `FX65` for an address above 4095 and by `EX9E`, `EXA1` for a key
  index above 15 (R242). Safe: the spec's own. -/
  | outOfBounds (op : Option Word16) (pc0 : Word16)
  /-- Raised by `00EE` when the call stack is empty (R243). Safe: the spec's own. -/
  | stackUnderflow (op : Word16) (pc0 : Word16)
  /-- Raised by `2NNN` when 16 return addresses are held (R243). Safe: the spec's own. -/
  | stackOverflow (op : Word16) (pc0 : Word16)
  deriving DecidableEq, Repr

/-- Why a transaction is refused. -/
inductive Refusal where
  /-- An instruction without a meaning in this model: none is left. Safe. -/
  | notModelled (mnemonic : String)
  /-- Raised by `step` and every host transaction but Reset while the core is faulted; carries the recorded fault, which
  the refused Step "returns again" (R121, R252). Safe: the spec's own. -/
  | coreFaulted (recorded : Option Fault)
  /-- Raised by KeyPress and KeyRelease for a key code above 15 (R255, D14). Safe: the spec's own. -/
  | keyCodeOutOfRange (k : Nat)
  /-- Raised by Reset when `ENTRY` or the image's length breaks its preconditions (R282, D6). Safe: the spec's own. -/
  | resetRefused (entry length : Nat)
  deriving DecidableEq, Repr

/-- The complete state (R20), and the model's own `free`. -/
structure State where
  /-- `mem` (R21). -/
  mem : Memory
  /-- `V[0..15]` (R23); `VF` is `V[15]` (R24). -/
  v : Vector Byte 16
  /-- `I` (R25). -/
  i : Word16
  /-- `pc` (R26). -/
  pc : Word16
  /-- `sp`, the depth of the call stack, 0 to 16 (R28). -/
  sp : Fin 17
  /-- `stack[0..15]` (R28). -/
  stack : Vector Word16 16
  /-- `dt`, the delay timer (R29). -/
  dt : Byte
  /-- `st`, the sound timer (R29). -/
  st : Byte
  /-- `disp` (R30). -/
  disp : Display
  /-- `dirty` (R31). -/
  dirty : Bool
  /-- `key[0..15]` (R32). -/
  key : Vector Bool 16
  /-- `run` (R33). -/
  run : RunState
  /-- `wait_x` (R34). -/
  waitX : Nibble
  /-- `fault` (R35). -/
  fault : Option Fault
  /-- THE MODEL'S OWN, not the spec's: the index of the next free value (log 5). -/
  free : Nat
  deriving DecidableEq, Repr

/-- The machine right after Reset with the default `ENTRY` and `FONT` and an empty image (R40, R280): memory lists
nothing, since an unlisted address reads as the reset contents. Values by D4, D5: log 3, log 4. -/
def State.reset : State where
  mem := []
  v := Vector.replicate 16 0
  i := 0
  pc := BitVec.ofNat 16 Config.entry
  sp := 0
  stack := Vector.replicate 16 0
  dt := 0
  st := 0
  disp := Vector.replicate 32 0
  dirty := false
  key := Vector.replicate 16 false
  run := .running
  waitX := 0
  fault := none
  free := 0

end Sys2Proof.Machine
end

