-- ==== Sys2Proof/Machine/Ops.lean ====
section
/-! DEFINITION. The named operations over memory, registers, program counter, call stack and display that the meanings
are made of, and taking a fault (60_exceptions.md R244). -/

namespace Sys2Proof.Machine

/-- How every operation that can stop or fault answers. -/
abbrev Result := Host.Outcome State Fault Refusal

/-! ## Main memory (20_memory.md R60 to R69) -/

/-- What a byte nothing has written reads as: the font table in `0x000..0x04F` and `0x00` everywhere else, the reset
contents of R40. The font bytes are PRESUMED (log 2), the zeros the spec's decision D4 (log 3). -/
def Memory.unlisted (a : Nat) : Byte :=
  if h : a < 80 then Config.font[a] else 0

/-- The byte at an address. -/
def Memory.read : Memory → Nat → Byte
  | [], a => Memory.unlisted a
  | (k, b) :: rest, a => if a = k then b else Memory.read rest a

/-- Drop every pair at an address. -/
def Memory.erase (m : Memory) (a : Nat) : Memory :=
  m.filter fun c => c.1 != a

/-- List a byte at its place in the rising order of addresses. -/
def Memory.insert : Memory → Nat → Byte → Memory
  | [], a, b => [(a, b)]
  | (k, c) :: rest, a, b =>
    if a < k then (a, b) :: (k, c) :: rest
    else if a = k then (a, b) :: rest
    else (k, c) :: Memory.insert rest a b

/-- `mem[a] <- b`, keeping the canonical form: a byte that an unlisted address reads as is not listed. -/
def Memory.write (m : Memory) (a : Nat) (b : Byte) : Memory :=
  if b = Memory.unlisted a then m.erase a else m.insert a b

/-- Write consecutive bytes at ascending addresses, in order (R62). -/
def Memory.writeBytes : Memory → Nat → List Byte → Memory
  | m, _, [] => m
  | m, a, b :: bs => Memory.writeBytes (m.write a b) (a + 1) bs

/-- Read consecutive bytes at ascending addresses (R62). -/
def Memory.readBytes (m : Memory) (a count : Nat) : List Byte :=
  (List.range count).map fun k => m.read (a + k)

/-- The canonical form from an address on: addresses rise strictly, lie below 4096, and no pair lists what an unlisted
address reads as. -/
def Memory.wfFrom : Nat → Memory → Bool
  | _, [] => true
  | lo, (a, b) :: rest => decide (lo ≤ a) && decide (a < memSize) && (b != Memory.unlisted a) && Memory.wfFrom (a + 1) rest

/-- The canonical form of memory. -/
def Memory.wf (m : Memory) : Bool := Memory.wfFrom 0 m

/-- The canonical memory that reads as `f` at every address. -/
@[irreducible] def Memory.ofBytes (f : Nat → Byte) : Memory :=
  ((List.range memSize).map fun a => (a, f a)).filter fun c => c.2 != Memory.unlisted c.1

/-- The bounds check of `count` consecutive bytes from `a`, on unbounded addresses (R63, R66): every accessed address is
at most 4095. Nothing accessed is always in bounds. -/
def inBounds (a count : Nat) : Bool :=
  decide (count = 0) || decide (a + count ≤ memSize)

/-- Replace main memory. -/
def State.setMem (s : State) (m : Memory) : State := { s with mem := m }

/-! ## General registers and index register (10_state.md R23, R25) -/

/-- `V[x]`. -/
def State.readV (s : State) (x : Nibble) : Byte := s.v[x.toNat]'x.isLt

/-- `V[x] <- b`. -/
def State.writeV (s : State) (x : Nibble) (b : Byte) : State := { s with v := s.v.set x.toNat b x.isLt }

/-- Replace all 16 general registers. -/
def State.setRegs (s : State) (v : Vector Byte 16) : State := { s with v := v }

/-- `I <- a`. -/
def State.setIndex (s : State) (a : Word16) : State := { s with i := a }

/-! ## Program counter (40_step_engine.md R124, R130) -/

/-- `npc`, the already-advanced program counter: the value of `pc` at fetch plus 2 (R124). Sixteen bits, log 9. -/
def State.npc (s : State) : Word16 := s.pc + 2

/-- `pc <- a`. -/
def State.setPc (s : State) (a : Word16) : State := { s with pc := a }

/-- Leave `pc = npc`, as every instruction that does not mention `pc` does (R124). -/
def State.advance (s : State) : State := s.setPc s.npc

/-- A conditional skip: `pc <- npc + 2` when the condition holds, else `pc` stays `npc` (R124, R149). -/
def State.skipIf (s : State) (c : Bool) : State := s.setPc (if c then s.npc + 2 else s.npc)

/-! ## Call stack (10_state.md R28) -/

/-- Push a return address; none when 16 are held already. -/
def State.push (s : State) (a : Word16) : Option State :=
  if h : s.sp.val < 16 then
    some { s with stack := s.stack.set s.sp.val a h, sp := ⟨s.sp.val + 1, Nat.succ_lt_succ h⟩ }
  else none

/-- Pop the top return address; none when the stack is empty. The slot's content stays in place (R140). -/
def State.pop (s : State) : Option (Word16 × State) :=
  if h : 0 < s.sp.val then
    some (s.stack[s.sp.val - 1]'(by omega), { s with sp := ⟨s.sp.val - 1, by omega⟩ })
  else none

/-! ## Timers, display, keys, run state (10_state.md R29 to R34) -/

/-- `dt <- b`. -/
def State.setDt (s : State) (b : Byte) : State := { s with dt := b }

/-- `st <- b`. -/
def State.setSt (s : State) (b : Byte) : State := { s with st := b }

/-- Replace the display buffer. -/
def State.setDisp (s : State) (d : Display) : State := { s with disp := d }

/-- `dirty <- b`. -/
def State.setDirty (s : State) (b : Bool) : State := { s with dirty := b }

/-- `key[k]`. -/
def State.readKey (s : State) (k : Fin 16) : Bool := s.key[k.val]

/-- `key[k] <- b`. -/
def State.writeKey (s : State) (k : Fin 16) (b : Bool) : State := { s with key := s.key.set k.val b }

/-- `wait_x <- x; run <- WaitingForKey` (R226). -/
def State.enterWait (s : State) (x : Nibble) : State := { s with waitX := x, run := .waitingForKey }

/-- `run <- r`. -/
def State.setRun (s : State) (r : RunState) : State := { s with run := r }

/-! ## Free values (log 5) -/

/-- `draw8()`: the fresh random byte of this use (R8, R183). -/
def State.draw (s : State) : Byte := Config.draw s.free

/-- The next free value is a new one. -/
def State.spendFree (s : State) : State := { s with free := s.free + 1 }

/-! ## Taking a fault (60_exceptions.md R244) -/

/-- The state a fault leaves but for `run` and `fault`: every component is a free value, since it "must be treated as
undefined" (R244; log 6). -/
def State.voided (s : State) : State where
  mem := Memory.ofBytes (Config.voidByte s.free)
  v := Config.voidRegs s.free
  i := Config.voidIndex s.free
  pc := Config.voidPc s.free
  sp := Config.voidDepth s.free
  stack := Config.voidStack s.free
  dt := Config.voidDelay s.free
  st := Config.voidSound s.free
  disp := Config.voidDisp s.free
  dirty := Config.voidDirty s.free
  key := Config.voidKeys s.free
  run := s.run
  waitX := Config.voidWaitX s.free
  fault := s.fault
  free := s.free + 1

/-- Fault entry: `run <- Faulted; fault <- f`, every other component void (R244). No vector is fetched, nothing is saved,
and there is no return from it: only the host's Reset leaves `faulted` (R245). -/
def State.enterFault (s : State) (f : Fault) : State := { s.voided with run := .faulted, fault := some f }

/-- `raise f`: ends the Step with the fault taken (R8, R129). -/
def raise (f : Fault) (s : State) : Result := .next (s.enterFault f)

end Sys2Proof.Machine
end

