-- ==== Sys2Proof/Machine/Operands.lean ====
section
/-! DEFINITION. The operand forms: blocks of memory addressed through `I` (43_index_memory.md R196), register blocks, key
indices, decimal digits and glyph addresses. Registers and immediates need no form of their own: `State.readV` reads a
register and every immediate is used zero-extended as it stands (30_encoding.md R93). -/

namespace Sys2Proof.Machine

/-- `zext_16` of an address immediate (R8, R93). -/
def zextAddr (nnn : Addr12) : Word16 := nnn.setWidth 16

/-- `zext_16` of an 8-bit value (R8). -/
def zextByte (b : Byte) : Word16 := b.setWidth 16

/-- The bounds check of the `count` bytes at `I`, `I + 1`, … (R63, R66). -/
def State.blockInBounds (s : State) (count : Nat) : Bool := inBounds s.i.toNat count

/-- The `count` bytes at `I`, `I + 1`, … in that order. -/
def State.readBlock (s : State) (count : Nat) : List Byte := s.mem.readBytes s.i.toNat count

/-- Store bytes at `I`, `I + 1`, … in that order; `I` is unchanged (R196). -/
def State.writeBlock (s : State) (bs : List Byte) : State := s.setMem (s.mem.writeBytes s.i.toNat bs)

/-- How many registers the field `x` counts in `FX55` and `FX65`: `V0` to `Vx` (R194, R195). -/
def regCount (x : Nibble) : Nat := x.toNat + 1

/-- The registers `V0..Vx`, in order. -/
def State.regBlock (s : State) (x : Nibble) : List Byte := s.v.toList.take (regCount x)

/-- `V[i] <- mem[I + i]` for `i` in `0..x`; the registers above `Vx` keep their values (R195). -/
def State.loadRegBlock (s : State) (x : Nibble) : State :=
  s.setRegs (Vector.ofFn fun j : Fin 16 =>
    if j.val < regCount x then s.mem.read (s.i.toNat + j.val) else s.v[j.val])

/-- The decimal digits of a byte, hundreds first (R193). -/
def bcdDigits (b : Byte) : List Byte :=
  [BitVec.ofNat 8 (b.toNat / 100), BitVec.ofNat 8 (b.toNat / 10 % 10), BitVec.ofNat 8 (b.toNat % 10)]

/-- The address of the glyph of `Vx`: `Vx * 5`, the whole byte used (R192). -/
def glyphAddress (b : Byte) : Word16 := BitVec.ofNat 16 (b.toNat * 5)

/-- The key flag a byte selects: none above 15 (R222, the spec's decision D12). -/
def keyIndex (b : Byte) : Option (Fin 16) :=
  if h : b.toNat < 16 then some ⟨b.toNat, h⟩ else none

end Sys2Proof.Machine
end

