-- ==== Sys2Proof/Machine/ControlFlow.lean ====
section
/-! DEFINITION. Control flow: `00EE`, `1NNN`, `2NNN`, `BNNN`, `3XNN`, `4XNN`, `5XY0`, `9XY0` (41_control_flow.md).

Every meaning of the machine takes the state as the Step found it: `s.pc` is `pc0`, `s.npc` is `npc`, and the fetched
opcode is `encode` of the instruction (log 8). -/

namespace Sys2Proof.Machine

/-- `00EE` (R140). -/
def execRet (s : State) : Result :=
  match s.pop with
  | none => raise (.stackUnderflow (encode .ret) s.pc) s
  | some (a, t) => .next (t.setPc a)

/-- `1NNN` (R141). -/
def execJp (nnn : Addr12) (s : State) : Result :=
  .next (s.setPc (zextAddr nnn))

/-- `2NNN`: push `npc`, then jump (R142). -/
def execCall (nnn : Addr12) (s : State) : Result :=
  match s.push s.npc with
  | none => raise (.stackOverflow (encode (.call nnn)) s.pc) s
  | some t => .next (t.setPc (zextAddr nnn))

/-- `BNNN`: the plain sum, unreduced in 16 bits; the register is always `V0` (R143). -/
def execJpV0 (nnn : Addr12) (s : State) : Result :=
  .next (s.setPc (zextByte (s.readV 0) + zextAddr nnn))

/-- `3XNN` (R144). -/
def execSeImm (x : Nibble) (nn : Byte) (s : State) : Result :=
  .next (s.skipIf (s.readV x == nn))

/-- `4XNN` (R145). -/
def execSneImm (x : Nibble) (nn : Byte) (s : State) : Result :=
  .next (s.skipIf (s.readV x != nn))

/-- `5XY0` (R146). -/
def execSeReg (x y : Nibble) (s : State) : Result :=
  .next (s.skipIf (s.readV x == s.readV y))

/-- `9XY0`: register against register (R147). -/
def execSneReg (x y : Nibble) (s : State) : Result :=
  .next (s.skipIf (s.readV x != s.readV y))

end Sys2Proof.Machine
end

