-- ==== Sys2Proof/Machine/Flags.lean ====
section
/-! DEFINITION. The flag values `VF` takes and the write order of a result and its flag (10_state.md R24;
40_step_engine.md R127, R128). Collision, the sixth flag, is computed by the drawing in Machine/Sprite.lean. -/

namespace Sys2Proof.Machine

/-- `VF`, the register that doubles as the flag (R24). -/
def flagReg : Nibble := 0xF

/-- A flag is written as exactly 0 or 1 (R24). -/
def flagByte (c : Bool) : Byte := if c then 1 else 0

/-- Carry of `8XY4`: the unreduced sum exceeds 255 (R166, R171). -/
def carry (a b : Byte) : Bool := decide (a.toNat + b.toNat > 255)

/-- No-borrow of `8XY5` and `8XY7`: minuend at least subtrahend (R167, R169, R171). -/
def noBorrow (a b : Byte) : Bool := decide (a.toNat ≥ b.toNat)

/-- The bit `8XY6` shifts out: bit 0 (R168). -/
def lowBit (a : Byte) : Bool := a.getLsbD 0

/-- The bit `8XYE` shifts out: bit 7 (R170). -/
def highBit (a : Byte) : Bool := a.getLsbD 7

/-- `VF <- flag`. -/
def State.writeFlag (s : State) (c : Bool) : State := s.writeV flagReg (flagByte c)

/-- The result first and the flag last, so that with `x = F` the register ends holding the flag (R128; log 10). -/
def State.writeResultFlag (s : State) (x : Nibble) (r : Byte) (c : Bool) : State :=
  (s.writeV x r).writeFlag c

end Sys2Proof.Machine
end

