-- ==== Sys2Proof/Machine/Sprite.lean ====
section
/-! DEFINITION. Pixels of the display buffer and drawing a sprite on it (10_state.md R30; 44_display.md R211, R212). -/

namespace Sys2Proof.Machine

/-- The place of a pixel: horizontal coordinate 0 to 63, vertical coordinate 0 to 31 (R30). -/
structure Pixel where
  x : Fin 64
  y : Fin 32
  deriving DecidableEq, Repr

/-- `disp[x][y]`. -/
def Display.pixel (d : Display) (p : Pixel) : Bool := d[p.y.val].getLsbD p.x.val

/-- `disp[x][y] <- disp[x][y] ^ 1`. -/
def Display.flip (d : Display) (p : Pixel) : Display :=
  d.set p.y.val (d[p.y.val] ^^^ BitVec.twoPow 64 p.x.val)

/-- The blank display. -/
def Display.blank : Display := Vector.replicate 32 0

/-- What drawing has done so far: the buffer, whether a set pixel became unset, whether any pixel changed (R211). -/
structure Canvas where
  disp : Display
  collision : Bool
  changed : Bool
  deriving DecidableEq, Repr

/-- One sprite bit and the pixel it falls on. -/
structure SpriteBit where
  bit : Bool
  place : Pixel
  deriving DecidableEq, Repr

/-- The pixel of column `c`, row `r` of a sprite at `(vx, vy)`: each coordinate taken modulo 64 and 32 (R211, the spec's
decision D11; log 13). -/
def spritePlace (vx vy : Byte) (r c : Nat) : Pixel where
  x := Fin.ofNat 64 (vx.toNat + c)
  y := Fin.ofNat 32 (vy.toNat + r)

/-- The eight bits of one sprite row, column 0 first; column `c` is bit `7 - c` of the byte (R212). -/
def rowBits (vx vy : Byte) (r : Nat) (row : Byte) : List SpriteBit :=
  (List.range 8).map fun c => ⟨row.getLsbD (7 - c), spritePlace vx vy r c⟩

/-- The bits of the rows from row `r` on, top row first. -/
def spriteBitsFrom (vx vy : Byte) : Nat → List Byte → List SpriteBit
  | _, [] => []
  | r, row :: rows => rowBits vx vy r row ++ spriteBitsFrom vx vy (r + 1) rows

/-- All bits of a sprite (R212). -/
def spriteBits (vx vy : Byte) (rows : List Byte) : List SpriteBit := spriteBitsFrom vx vy 0 rows

/-- XOR one sprite bit on the canvas (R211, the body of its two loops). -/
def Canvas.plot (k : Canvas) (b : SpriteBit) : Canvas :=
  if b.bit then
    { disp := Display.flip k.disp b.place
      collision := k.collision || Display.pixel k.disp b.place
      changed := true }
  else k

/-- Draw a sprite on a display, from no collision and no change (R211). -/
def drawSprite (d : Display) (vx vy : Byte) (rows : List Byte) : Canvas :=
  (spriteBits vx vy rows).foldl Canvas.plot { disp := d, collision := false, changed := false }

end Sys2Proof.Machine
end

