-- ==== Sys2Proof/Machine/Display.lean ====
section
/-! DEFINITION. Display: `00E0` and `DXYN` (44_display.md). -/

namespace Sys2Proof.Machine

/-- `00E0`: blank the display; `dirty` is set whatever it showed (R210). -/
def execCls (s : State) : Result :=
  .next ((s.setDisp Display.blank).setDirty true).advance

/-- What `DXYN` draws: the `n` rows at `I`, at `(Vx, Vy)`, on the display (R211). -/
def State.drawn (s : State) (x y n : Nibble) : Canvas :=
  drawSprite s.disp (s.readV x) (s.readV y) (s.readBlock n.toNat)

/-- `DXYN`: bounds check, then the drawing; `VF` is the collision, `dirty` is set if a pixel changed and else kept
(R211). With `n = 0` nothing is read and nothing can fault. -/
def execDrw (x y n : Nibble) (s : State) : Result :=
  if s.blockInBounds n.toNat then
    .next (((s.setDisp (s.drawn x y n).disp).setDirty (s.dirty || (s.drawn x y n).changed)).writeFlag
      (s.drawn x y n).collision).advance
  else raise (.outOfBounds (some (encode (.drw x y n))) s.pc) s

end Sys2Proof.Machine
end

