-- ==== Sys2Proof/Machine/IndexMemory.lean ====
section
/-! DEFINITION. Index register and memory: `ANNN`, `FX1E`, `FX29`, `FX33`, `FX55`, `FX65` (43_index_memory.md). Every bounds
check comes before the first write (40_step_engine.md R129). -/

namespace Sys2Proof.Machine

/-- `ANNN` (R190). -/
def execLdIndex (nnn : Addr12) (s : State) : Result :=
  .next (s.setIndex (zextAddr nnn)).advance

/-- `FX1E`: modulo 65536, no flag (R191; log 16). -/
def execAddIndex (x : Nibble) (s : State) : Result :=
  .next (s.setIndex (s.i + zextByte (s.readV x))).advance

/-- `FX29` (R192). -/
def execLdGlyph (x : Nibble) (s : State) : Result :=
  .next (s.setIndex (glyphAddress (s.readV x))).advance

/-- `FX33` (R193). -/
def execStoreBcd (x : Nibble) (s : State) : Result :=
  if s.blockInBounds 3 then .next (s.writeBlock (bcdDigits (s.readV x))).advance
  else raise (.outOfBounds (some (encode (.storeBcd x))) s.pc) s

/-- `FX55` (R194). -/
def execStoreRegs (x : Nibble) (s : State) : Result :=
  if s.blockInBounds (regCount x) then .next (s.writeBlock (s.regBlock x)).advance
  else raise (.outOfBounds (some (encode (.storeRegs x))) s.pc) s

/-- `FX65` (R195). -/
def execLoadRegs (x : Nibble) (s : State) : Result :=
  if s.blockInBounds (regCount x) then .next (s.loadRegBlock x).advance
  else raise (.outOfBounds (some (encode (.loadRegs x))) s.pc) s

end Sys2Proof.Machine
end

