-- ==== Sys2Proof/Machine/KeypadTimers.lean ====
section
/-! DEFINITION. Keypad and timers: `EX9E`, `EXA1`, `FX0A`, `FX07`, `FX15`, `FX18` (45_keypad_timers.md). -/

namespace Sys2Proof.Machine

/-- `EX9E`: a key index above 15 raises `OutOfBounds` (R220, R222; log 14). -/
def execSkp (x : Nibble) (s : State) : Result :=
  match keyIndex (s.readV x) with
  | some k => .next (s.skipIf (s.readKey k))
  | none => raise (.outOfBounds (some (encode (.skp x))) s.pc) s

/-- `EXA1`: a key index above 15 raises `OutOfBounds` (R221, R222; log 14). -/
def execSknp (x : Nibble) (s : State) : Result :=
  match keyIndex (s.readV x) with
  | some k => .next (s.skipIf (!s.readKey k))
  | none => raise (.outOfBounds (some (encode (.sknp x))) s.pc) s

/-- `FX07` (R223). -/
def execLdFromDelay (x : Nibble) (s : State) : Result :=
  .next (s.writeV x s.dt).advance

/-- `FX0A`, its first half: suspend until a KeyPress (R226). The second half is the host's KeyPress (R255), `keyPress` in
Machine/Transactions.lean. -/
def execWaitKey (x : Nibble) (s : State) : Result :=
  .next (s.enterWait x).advance

/-- `FX15` (R224). -/
def execSetDelay (x : Nibble) (s : State) : Result :=
  .next (s.setDt (s.readV x)).advance

/-- `FX18` (R225). -/
def execSetSound (x : Nibble) (s : State) : Result :=
  .next (s.setSt (s.readV x)).advance

end Sys2Proof.Machine
end

