-- ==== Sys2Proof/Machine/LoadArithLogic.lean ====
section
/-! DEFINITION. Load, arithmetic, logic, shift and random: `6XNN`, `7XNN`, `8XY0` to `8XY7`, `8XYE`, `CXNN`
(42_load_arith_logic.md). A sum or difference of bytes wraps modulo 256 (R171). -/

namespace Sys2Proof.Machine

/-- `6XNN` (R160). -/
def execLdImm (x : Nibble) (nn : Byte) (s : State) : Result :=
  .next (s.writeV x nn).advance

/-- `7XNN`: no flag (R161). -/
def execAddImm (x : Nibble) (nn : Byte) (s : State) : Result :=
  .next (s.writeV x (s.readV x + nn)).advance

/-- `8XY0` (R162). -/
def execLdReg (x y : Nibble) (s : State) : Result :=
  .next (s.writeV x (s.readV y)).advance

/-- `8XY1` (R163). -/
def execOrReg (x y : Nibble) (s : State) : Result :=
  .next (s.writeV x (s.readV x ||| s.readV y)).advance

/-- `8XY2` (R164). -/
def execAndReg (x y : Nibble) (s : State) : Result :=
  .next (s.writeV x (s.readV x &&& s.readV y)).advance

/-- `8XY3` (R165). -/
def execXorReg (x y : Nibble) (s : State) : Result :=
  .next (s.writeV x (s.readV x ^^^ s.readV y)).advance

/-- `8XY4`: `VF` is the carry, written last (R166). -/
def execAddReg (x y : Nibble) (s : State) : Result :=
  .next (s.writeResultFlag x (s.readV x + s.readV y) (carry (s.readV x) (s.readV y))).advance

/-- `8XY5`: `VF` is no-borrow, written last (R167). -/
def execSubReg (x y : Nibble) (s : State) : Result :=
  .next (s.writeResultFlag x (s.readV x - s.readV y) (noBorrow (s.readV x) (s.readV y))).advance

/-- `8XY6`: the source is `Vx`, `y` is ignored (R168, R99; log 11). -/
def execShr (x _y : Nibble) (s : State) : Result :=
  .next (s.writeResultFlag x (s.readV x >>> 1) (lowBit (s.readV x))).advance

/-- `8XY7`: `Vy - Vx` (R169). -/
def execSubn (x y : Nibble) (s : State) : Result :=
  .next (s.writeResultFlag x (s.readV y - s.readV x) (noBorrow (s.readV y) (s.readV x))).advance

/-- `8XYE`: the source is `Vx`, `y` is ignored (R170, R99; log 11). -/
def execShl (x _y : Nibble) (s : State) : Result :=
  .next (s.writeResultFlag x (s.readV x <<< 1) (highBit (s.readV x))).advance

/-- `CXNN`: a fresh random byte masked by `nn` (R183; the byte is a free value, log 5). -/
def execRnd (x : Nibble) (nn : Byte) (s : State) : Result :=
  .next (s.writeV x (s.draw &&& nn)).spendFree.advance

end Sys2Proof.Machine
end

