-- ==== Sys2Proof/Machine/Fetch.lean ====
section
/-! DEFINITION. Fetching an instruction's bytes (40_step_engine.md R122) and placing an instruction where it is fetched. -/

namespace Sys2Proof.Machine

/-- The opcode at the program counter: two bytes, big-endian, at any `pc`, odd or even; none when `pc > 4094`, where one
of the two reads is out of range (R122, R62, R64). It reads the same memory that stores write (R75). -/
def State.fetch (s : State) : Option Word16 :=
  if inBounds s.pc.toNat 2 then
    some (opcodeOfBytes (s.mem.read s.pc.toNat) (s.mem.read (s.pc.toNat + 1)))
  else none

/-- Store bytes where the next instruction is fetched from; nothing where they do not fit in memory. -/
def State.placeBytes (s : State) (bs : List Byte) : State :=
  if inBounds s.pc.toNat bs.length then s.setMem (s.mem.writeBytes s.pc.toNat bs) else s

end Sys2Proof.Machine
end

