-- ==== Sys2Proof/Machine/Step.lean ====
section
/-! DEFINITION. The Step transaction (40_step_engine.md R120 to R131). -/

namespace Sys2Proof.Machine

/-- Step: the run state is checked before any fetch. Faulted: refused, with the recorded fault (R121). Waiting: a no-op
(R121). Running: fetch, decode, execute, with the faults of fetch and decode in that order (R122, R123, R247). -/
def step (s : State) : Host.Outcome State Fault Refusal :=
  match s.run with
  | .faulted => .refused (.coreFaulted s.fault)
  | .waitingForKey => .next s
  | .running =>
    match s.fetch with
    | none => raise (.outOfBounds none s.pc) s
    | some op =>
      match decodeWord op with
      | .error _ => raise (.unknownOpcode op s.pc) s
      | .ok i => exec i s

/-- The state with the instruction of an opcode-table word stored where `step` fetches its next instruction: the two
bytes at `pc`, high byte first (R62). Only memory changes. It stands for the program load of R281 (log 19). -/
def State.withFetchWord (s : State) (nbits w : Nat) : State :=
  s.placeBytes (tableBytes nbits w)

end Sys2Proof.Machine
end

