-- ==== Sys2Proof/Machine/Transactions.lean ====
section
/-! DEFINITION. The host's transactions (60_exceptions.md R250 to R258), Reset (70_reset_and_hazards.md R280 to R282), the
read-only views (R257) and the opcode a Step returns (40_step_engine.md R126). -/

namespace Sys2Proof.Machine

/-- While the core is faulted every transaction but Reset and the views is refused and changes nothing (R252). -/
def State.unlessFaulted (s : State) (r : Result) : Result :=
  match s.run with
  | .faulted => .refused (.coreFaulted s.fault)
  | .running => r
  | .waitingForKey => r

/-- One down, floor 0 (R253, R254). -/
def countDown (b : Byte) : Byte := if b = 0 then 0 else b - 1

/-- TickDelay (R253): allowed while running and while waiting for a key. -/
def tickDelay (s : State) : Result := s.unlessFaulted (.next (s.setDt (countDown s.dt)))

/-- TickSound (R254). -/
def tickSound (s : State) : Result := s.unlessFaulted (.next (s.setSt (countDown s.st)))

/-- `V[wait_x] <- k; run <- Running` while waiting for a key, else nothing (R255). -/
def State.completeWait (s : State) (k : Fin 16) : State :=
  match s.run with
  | .waitingForKey => (s.writeV s.waitX (BitVec.ofNat 8 k.val)).setRun .running
  | .running => s
  | .faulted => s

/-- KeyPress(k): the flag is set and a pending `FX0A` completed; `pc` stays (R255). Another `k` than 0 to 15 is outside
the interface. -/
def keyPress (k : Nat) (s : State) : Result :=
  if h : k < 16 then s.unlessFaulted (.next ((s.writeKey ⟨k, h⟩ true).completeWait ⟨k, h⟩))
  else .refused (.keyCodeOutOfRange k)

/-- KeyRelease(k): the flag is cleared; a wait goes on (R256). -/
def keyRelease (k : Nat) (s : State) : Result :=
  if h : k < 16 then s.unlessFaulted (.next (s.writeKey ⟨k, h⟩ false))
  else .refused (.keyCodeOutOfRange k)

/-- ClearDirty (R258). -/
def clearDirty (s : State) : Result := s.unlessFaulted (.next (s.setDirty false))

/-- The preconditions of Reset (R282, and R5's range of `ENTRY`). -/
def resetAllowed (entry length : Nat) : Bool :=
  decide (0x050 ≤ entry) && decide (entry ≤ 0xFFF) && decide (entry + length ≤ memSize)

/-- Memory after Reset: every byte `0x00`, then the font at 0, then the image at `ENTRY` (R280). It is built from
`font` itself, so it reads as `font` where that differs from `Config.font`. -/
def resetMemory (entry : Nat) (font : Vector Byte 80) (image : List Byte) : Memory :=
  (Memory.writeBytes [] 0 font.toList).writeBytes entry image

/-- Reset(image) for any `ENTRY` and `FONT` (R280). `free` is the model's own index of free values, which a Reset does
not rewind: nothing says that a reset repeats the random bytes (log 5). -/
def State.resetWith (entry : Nat) (font : Vector Byte 80) (image : List Byte) (free : Nat) : Result :=
  if resetAllowed entry image.length then
    .next { State.reset with
      mem := resetMemory entry font image, pc := BitVec.ofNat 16 entry, free := free }
  else .refused (.resetRefused entry image.length)

/-- Reset(image) with the parameters of `Config`, in any run state (R280). -/
def resetCore (image : List Byte) (s : State) : Result := State.resetWith Config.entry Config.font image s.free

/-- The transactions that change the core (R250). -/
inductive Transaction where
  | reset (image : List Byte)
  | step
  | tickDelay
  | tickSound
  | keyPress (k : Nat)
  | keyRelease (k : Nat)
  | clearDirty
  deriving DecidableEq, Repr

/-- Apply one transaction, atomically (R67, R250). -/
def transact (a : Transaction) (s : State) : Result :=
  match a with
  | .reset image => resetCore image s
  | .step => Sys2Proof.Machine.step s
  | .tickDelay => Sys2Proof.Machine.tickDelay s
  | .tickSound => Sys2Proof.Machine.tickSound s
  | .keyPress k => Sys2Proof.Machine.keyPress k s
  | .keyRelease k => Sys2Proof.Machine.keyRelease k s
  | .clearDirty => Sys2Proof.Machine.clearDirty s

/-- A sequence of whole transactions, a refused one changing nothing: an execution of the system (R72, R250). -/
def runTransactions : List Transaction → State → State
  | [], s => s
  | a :: rest, s =>
    match transact a s with
    | .next t => runTransactions rest t
    | .fault _ => runTransactions rest s
    | .refused _ => runTransactions rest s

/-- ReadDisplay: pixel `(x, y)` is element `y * 64 + x` (R257, D23). -/
def readDisplay (s : State) : List Bool :=
  (List.range 2048).map fun e => Display.pixel s.disp ⟨Fin.ofNat 64 e, Fin.ofNat 32 (e / 64)⟩

/-- ReadDirty (R257). -/
def readDirty (s : State) : Bool := s.dirty

/-- ReadStatus: the run state and, if faulted, the record (R257). -/
def readStatus (s : State) : RunState × Option Fault := (s.run, s.fault)

/-- The fault's number in the spec's own code (R240, D16); 0 is no fault. -/
def faultCode : Option Fault → Nat
  | none => 0
  | some (.unknownOpcode _ _) => 1
  | some (.outOfBounds _ _) => 2
  | some (.stackUnderflow _ _) => 3
  | some (.stackOverflow _ _) => 4

/-- The opcode a Step from this state returns for diagnostics: the fetched word when an instruction was executed without
a fault, else none (R36, R126). An output of the transaction, no state. -/
def executedOpcode (s : State) : Option Word16 :=
  match s.run with
  | .faulted => none
  | .waitingForKey => none
  | .running =>
    match Sys2Proof.Machine.step s with
    | .next t => if t.run = .faulted then none else s.fetch
    | .fault _ => none
    | .refused _ => none

end Sys2Proof.Machine
end

