-- ==== Sys2Proof/Safety.lean ====
section
/-! DEFINITION. The terms claims are made in: what a run may not do, which component an instruction may write, where the
program counter goes, the invariant of the machine, and the end of a run. -/

namespace Sys2Proof

open Machine

/-! ## Faults -/

/-- The transaction raises the fault: the core is then faulted with this record, and nothing else is claimed of the state,
which is void (60_exceptions.md R244). -/
def Raises (r : Result) (f : Fault) : Prop :=
  ∃ t, r = .next t ∧ t.run = .faulted ∧ t.fault = some f

/-! ## Frames -/

/-- A component of the state (10_state.md R20) down to one register, byte, slot, pixel or key; all but `pc`. -/
inductive Component where
  | reg (x : Nibble)
  | index
  | byte (a : Nat)
  | depth
  | slot (j : Fin 16)
  | delay
  | sound
  | pixel (p : Pixel)
  | dirty
  | key (k : Fin 16)
  | run
  | waitX
  | fault
  | free
  deriving DecidableEq, Repr

/-- The component holds the same value in both states. -/
def Component.same (s t : State) : Component → Prop
  | .reg x => t.readV x = s.readV x
  | .index => t.i = s.i
  | .byte a => t.mem.read a = s.mem.read a
  | .depth => t.sp = s.sp
  | .slot j => t.stack[j.val] = s.stack[j.val]
  | .delay => t.dt = s.dt
  | .sound => t.st = s.st
  | .pixel p => Display.pixel t.disp p = Display.pixel s.disp p
  | .dirty => t.dirty = s.dirty
  | .key k => t.readKey k = s.readKey k
  | .run => t.run = s.run
  | .waitX => t.waitX = s.waitX
  | .fault => t.fault = s.fault
  | .free => t.free = s.free

/-- Every component but those named holds the same value in both states; of `pc` nothing is said. -/
def KeepsAllBut (changed : Component → Prop) (s t : State) : Prop :=
  ∀ c, ¬ changed c → Component.same s t c

/-- No component. -/
def nothing : Component → Prop := fun _ => False

/-- The one component. -/
def only (c : Component) : Component → Prop := fun d => d = c

/-- The one or the other. -/
def either (p q : Component → Prop) : Component → Prop := fun d => p d ∨ q d

/-- The `count` bytes of memory from address `a` on. -/
def bytesFrom (a count : Nat) : Component → Prop := fun d => ∃ k, k < count ∧ d = .byte (a + k)

/-- The registers `V0..Vx`. -/
def regsUpTo (x : Nibble) : Component → Prop := fun d => ∃ r : Nibble, r.toNat ≤ x.toNat ∧ d = .reg r

/-- All pixels. -/
def allPixels : Component → Prop := fun d => ∃ p, d = .pixel p

/-- `npc` and the skip's target, as numbers of 16 bits (R124). -/
def skipTarget (s : State) (c : Bool) : Word16 := if c then s.pc + 4 else s.pc + 2

/-- The sprite of `DXYN` has a set bit on the pixel: bit `7 - c` of row `r`, the byte at `I + r`, falls on the pixel whose
coordinates are `Vx + c` modulo 64 and `Vy + r` modulo 32 (44_display.md R211, R212; wrapping per pixel is D11). -/
def SpriteCovers (s : State) (x y n : Nibble) (p : Pixel) : Prop :=
  ∃ r c, r < n.toNat ∧ c < 8 ∧ (s.mem.read (s.i.toNat + r)).getLsbD (7 - c) = true ∧
    p.x.val = ((s.readV x).toNat + c) % 64 ∧ p.y.val = ((s.readV y).toNat + r) % 32

/-- The classes of illegal words (30_encoding.md R96), in the fields of R92. -/
def IllegalByClass (op : Word16) : Prop :=
  (fieldClass op = 0x0 ∧ op ≠ 0x00E0 ∧ op ≠ 0x00EE) ∨
  (fieldClass op = 0x5 ∧ fieldN op ≠ 0) ∨
  (fieldClass op = 0x8 ∧ fieldN op ∈ ([0x8, 0x9, 0xA, 0xB, 0xC, 0xD, 0xF] : List Nibble)) ∨
  (fieldClass op = 0x9 ∧ fieldN op ≠ 0) ∨
  (fieldClass op = 0xE ∧ fieldNN op ∉ ([0x9E, 0xA1] : List Byte)) ∨
  (fieldClass op = 0xF ∧ fieldNN op ∉ ([0x07, 0x0A, 0x15, 0x18, 0x1E, 0x29, 0x33, 0x55, 0x65] : List Byte))

/-- The instruction accesses an address above 4095 or a key index above 15: cases (b) to (e) of 60_exceptions.md R242. -/
def ReachesOutOfBounds (s : State) : Instr → Prop
  | .drw _ _ n => 1 ≤ n.toNat ∧ s.i.toNat + n.toNat - 1 > 4095
  | .storeBcd _ => s.i.toNat + 2 > 4095
  | .storeRegs x => s.i.toNat + x.toNat > 4095
  | .loadRegs x => s.i.toNat + x.toNat > 4095
  | .skp x => (s.readV x).toNat > 15
  | .sknp x => (s.readV x).toNat > 15
  | _ => False

/-! ## The program counter law and the writers of the state -/

/-- The program counter after an instruction that completes (40_step_engine.md R130). An empty stack and a key index above
15 never complete, so what stands for them here is never used. -/
def nextPc (s : State) : Instr → Word16
  | .ret => if h : 0 < s.sp.val then s.stack[s.sp.val - 1]'(by omega) else 0
  | .jp nnn => nnn.setWidth 16
  | .call nnn => nnn.setWidth 16
  | .jpV0 nnn => (s.readV 0).setWidth 16 + nnn.setWidth 16
  | .seImm x nn => skipTarget s (s.readV x == nn)
  | .sneImm x nn => skipTarget s (s.readV x != nn)
  | .seReg x y => skipTarget s (s.readV x == s.readV y)
  | .sneReg x y => skipTarget s (s.readV x != s.readV y)
  | .skp x => skipTarget s (s.readKey (Fin.ofNat 16 (s.readV x).toNat))
  | .sknp x => skipTarget s (!s.readKey (Fin.ofNat 16 (s.readV x).toNat))
  | .cls | .ldImm _ _ | .addImm _ _ | .ldReg _ _ | .orReg _ _ | .andReg _ _ | .xorReg _ _ | .addReg _ _
  | .subReg _ _ | .shr _ _ | .subn _ _ | .shl _ _ | .ldIndex _ | .rnd _ _ | .drw _ _ _ | .ldFromDelay _ | .waitKey _
  | .setDelay _ | .setSound _ | .addIndex _ | .ldGlyph _ | .storeBcd _ | .storeRegs _ | .loadRegs _ => s.pc + 2

/-- The instructions R20's table (10_state.md) lists as writers of a component, a fault apart. `free` is the model's own:
only the random draw moves it. -/
def Component.writtenBy : Component → Instr → Bool
  | .reg _, i => match i with
    | .ldImm _ _ | .addImm _ _ | .ldReg _ _ | .orReg _ _ | .andReg _ _ | .xorReg _ _ | .addReg _ _ | .subReg _ _
    | .shr _ _ | .subn _ _ | .shl _ _ | .rnd _ _ | .drw _ _ _ | .ldFromDelay _ | .loadRegs _ => true
    | _ => false
  | .index, i => match i with
    | .ldIndex _ | .addIndex _ | .ldGlyph _ => true
    | _ => false
  | .byte _, i => match i with
    | .storeBcd _ | .storeRegs _ => true
    | _ => false
  | .depth, i => match i with
    | .call _ | .ret => true
    | _ => false
  | .slot _, i => match i with
    | .call _ => true
    | _ => false
  | .delay, i => match i with
    | .setDelay _ => true
    | _ => false
  | .sound, i => match i with
    | .setSound _ => true
    | _ => false
  | .pixel _, i => match i with
    | .cls | .drw _ _ _ => true
    | _ => false
  | .dirty, i => match i with
    | .cls | .drw _ _ _ => true
    | _ => false
  | .key _, _ => false
  | .run, i => match i with
    | .waitKey _ => true
    | _ => false
  | .waitX, i => match i with
    | .waitKey _ => true
    | _ => false
  | .fault, _ => false
  | .free, i => match i with
    | .rnd _ _ => true
    | _ => false

/-- The instructions that write `VF` as a flag (10_state.md R24). -/
def Instr.writesFlag : Instr → Bool
  | .addReg _ _ | .subReg _ _ | .subn _ _ | .shr _ _ | .shl _ _ | .drw _ _ _ => true
  | _ => false

/-- The instruction names `V[r]` as a destination (the rules R160 to R170, R183, R195, R223). -/
def Instr.names (i : Instr) (r : Nibble) : Bool :=
  match i with
  | .ldImm x _ | .addImm x _ | .ldReg x _ | .orReg x _ | .andReg x _ | .xorReg x _ | .addReg x _ | .subReg x _
  | .shr x _ | .subn x _ | .shl x _ | .rnd x _ | .ldFromDelay x => x == r
  | .loadRegs x => decide (r.toNat ≤ x.toNat)
  | _ => false

end Sys2Proof

namespace Sys2Proof.Machine

/-! ## The invariant -/

/-- Memory keeps its canonical form. -/
def State.memoryCanonical (s : State) : Prop := s.mem.wf = true

/-- A fault is recorded exactly in the faulted state (R35). -/
def State.faultRecorded (s : State) : Prop := s.run = .faulted ↔ s.fault.isSome = true

/-- The bounds of R26: `pc` is at most `0x10FE`, every return address held at most `0x1000`. -/
def State.pcBounded (s : State) : Prop :=
  s.pc.toNat ≤ 0x10FE ∧ ∀ j : Fin 16, j.val < s.sp.val → s.stack[j.val].toNat ≤ 0x1000

/-- What holds of the core after every transaction; a faulted state is void but for its record. -/
def State.Inv (s : State) : Prop :=
  s.memoryCanonical ∧ s.faultRecorded ∧ (s.run ≠ .faulted → s.pcBounded)

/-! ## The end of a run -/

/-- A run has ended when the core is running and the word at `pc = a` is `0x1000 + a`, the jump to itself
(70_reset_and_hazards.md R287, the spec's decision D26). A faulted state is never the end of a run. -/
def State.runEnded (s : State) : Prop := s.run = .running ∧ s.fetch = some (0x1000 + s.pc)

end Sys2Proof.Machine
end

