-- ==== Sys2Proof/Certificates/Slice0/Obligations.lean ====
section
/-! DEFINITION. The statements for the provers. Numbers are natural numbers wherever the spec computes on them; `KeepsAllBut`
is the frame: every register, byte, stack slot, pixel, key and other component but those named holds its old value. -/

open Sys2Proof Sys2Proof.Machine

/-! ## Encoding -/

/-- Decoding the encoding of any instruction gives it back: no bit of an encoding is dropped (30_encoding.md §2, §3). -/
def Obligations.DecodeOfEncode : Prop := ∀ i : Instr, decodeWord (encode i) = .ok i

/-- Encoding what a word decodes to gives the word back, so the opcode a fault records, which the model rebuilds from the
instruction, is the word fetched (log 8). -/
def Obligations.EncodeOfDecode : Prop := ∀ (op : Word16) (i : Instr), decodeWord op = .ok i → encode i = op

/-- The bytes of an instruction, high byte first, decode to it whatever follows them (30_encoding.md §1). -/
def Obligations.DecodeOfEncodedBytes : Prop :=
  ∀ (i : Instr) (rest : List Byte), decodeBytes (encodeBytes i ++ rest) = .ok (i, rest)

/-- A word is the instruction of a row of the opcode map exactly when the row's mask and match select it; the 34 rows are
pairwise disjoint (30_encoding.md §5). The masks of classes 0, 5 and 9 carry the spec's decisions D9 and D10 (log 12). -/
def Obligations.OpcodeMapSelectsDecoding : Prop :=
  (∀ (op : Word16) (r : Row), r ∈ opcodeMap → (r.selects op = true ↔ ∃ i, decodeWord op = .ok i ∧ i.row = r)) ∧
  opcodeMap.Pairwise (fun r r' => ∀ op, ¬ (r.selects op = true ∧ r'.selects op = true)) ∧
  opcodeMap.length = 34

/-- The illegal words, class by class (30_encoding.md §6; class 0, 5 and 9 by D9 and D10, log 12): the decoder names exactly
these. -/
def Obligations.IllegalWordsByClass : Prop :=
  ∀ op : Word16, (decodeWord op = .error (.unknownOpcode op) ↔ IllegalByClass op) ∧
    (IllegalByClass op ↔ legalWord op = false)

/-- R92: the six fields of an opcode, as numbers, in terms of the word and of its two fetched bytes. -/
def Obligations.OpcodeFields : Prop :=
  ∀ hi lo : Byte, let op := opcodeOfBytes hi lo
    (fieldClass op).toNat = op.toNat / 4096 ∧ (fieldX op).toNat = op.toNat / 256 % 16 ∧
    (fieldY op).toNat = op.toNat / 16 % 16 ∧ (fieldN op).toNat = op.toNat % 16 ∧
    (fieldNN op).toNat = op.toNat % 256 ∧ (fieldNNN op).toNat = op.toNat % 4096 ∧
    (fieldNN op).toNat = (fieldY op).toNat * 16 + (fieldN op).toNat ∧
    (fieldNNN op).toNat = (fieldX op).toNat * 256 + (fieldNN op).toNat ∧
    (fieldClass op).toNat = hi.toNat / 16 ∧ (fieldX op).toNat = hi.toNat % 16 ∧
    (fieldY op).toNat = lo.toNat / 16 ∧ (fieldN op).toNat = lo.toNat % 16 ∧ fieldNN op = lo ∧
    (fieldNNN op).toNat = hi.toNat % 16 * 256 + lo.toNat

/-- Words of the test vectors (95_test_vectors.md §1.2, §2.5, §2.6) decode to the instructions they stand for. That
`0x5121` (§2.1) is refused is a choice: class 5 needs `n = 0` by the spec's decision D10 (log 12). -/
def Obligations.VectorWordsDecode : Prop :=
  decodeWord 0x00E0 = .ok .cls ∧ decodeWord 0x2101 = .ok (.call 0x101) ∧ decodeWord 0x8344 = .ok (.addReg 3 4) ∧
  decodeWord 0x7006 = .ok (.addImm 0 6) ∧ decodeWord 0xD122 = .ok (.drw 1 2 2) ∧ decodeWord 0xF033 = .ok (.storeBcd 0) ∧
  decodeWord 0xE1A1 = .ok (.sknp 1) ∧ decodeWord 0xF10A = .ok (.waitKey 1) ∧
  decodeWord 0x5121 = .error (.unknownOpcode 0x5121)

/-! ## The Step engine -/

/-- When the two bytes at the program counter of a running core decode to an instruction, Step is that instruction's
execution and nothing around it: the advance of `pc` past the word is part of `exec` (40_step_engine.md §1). -/
def Obligations.StepRunsDecodedInstruction : Prop :=
  ∀ (s : State) (i : Instr), s.run = .running → s.pc.toNat ≤ 4094 →
    decodeWord (opcodeOfBytes (s.mem.read s.pc.toNat) (s.mem.read (s.pc.toNat + 1))) = .ok i → step s = exec i s

/-- The instruction that `withFetchWord` places is the one the next Step of a running core executes (log 19). -/
def Obligations.StepRunsPlacedInstruction : Prop :=
  ∀ (s : State) (i : Instr), s.run = .running → s.pc.toNat ≤ 4094 →
    step (s.withFetchWord 16 (encode i).toNat) = exec i (s.withFetchWord 16 (encode i).toNat)

/-- R122: the fetch is two bytes at `pc`, odd or even, combined big-endian; with `pc > 4094` the Step raises `OutOfBounds`
with the `pc` and no opcode. -/
def Obligations.FetchTwoBytesInBounds : Prop :=
  ∀ s : State,
    (s.pc.toNat ≤ 4094 → ∃ op, s.fetch = some op ∧
      op.toNat = (s.mem.read s.pc.toNat).toNat * 256 + (s.mem.read (s.pc.toNat + 1)).toNat) ∧
    (s.pc.toNat > 4094 → s.fetch = none ∧ (s.run = .running → Raises (step s) (.outOfBounds none s.pc)))

/-- R241: a Step of a running core raises `UnknownOpcode` exactly when the fetched word is illegal, with that word and the
`pc` at fetch. Which words are illegal is `IllegalWordsByClass`. -/
def Obligations.UnknownOpcodeExactlyOnIllegalWord : Prop :=
  ∀ (s : State) (op pc0 : Word16), s.run = .running →
    (Raises (step s) (.unknownOpcode op pc0) ↔ s.fetch = some op ∧ legalWord op = false ∧ pc0 = s.pc)

/-- `OutOfBounds` in exactly the five cases (60_exceptions.md §1; case (e), a key index above 15, is the spec's decision D12,
log 14). -/
def Obligations.OutOfBoundsExactCases : Prop :=
  ∀ (s : State) (op : Option Word16) (pc0 : Word16), s.run = .running →
    (Raises (step s) (.outOfBounds op pc0) ↔ pc0 = s.pc ∧
      ((op = none ∧ s.pc.toNat > 4094) ∨
       ∃ w i, s.fetch = some w ∧ decodeWord w = .ok i ∧ op = some w ∧ ReachesOutOfBounds s i))

/-- R243: the stack faults, each in exactly its case. -/
def Obligations.StackFaultsExactCases : Prop :=
  ∀ (s : State) (op pc0 : Word16), s.run = .running →
    (Raises (step s) (.stackUnderflow op pc0) ↔
      s.fetch = some 0x00EE ∧ s.sp.val = 0 ∧ op = 0x00EE ∧ pc0 = s.pc) ∧
    (Raises (step s) (.stackOverflow op pc0) ↔
      s.fetch = some op ∧ op.toNat / 4096 = 2 ∧ s.sp.val = 16 ∧ pc0 = s.pc)

/-- A waiting core's Step changes nothing; a faulted core's Step is refused with the recorded fault (40_step_engine.md §1; the
spec's decisions D13, D15, log 7 and log 20). -/
def Obligations.StepGatedByRunState : Prop :=
  ∀ s : State, (s.run = .waitingForKey → step s = .next s) ∧
    (s.run = .faulted → step s = .refused (.coreFaulted s.fault))

/-- Step is total: a running core always answers a next state, and so does every instruction in every state
(40_step_engine.md §4; that a fault too is a next state is the model's choice, log 7). -/
def Obligations.RunningStepAnswersNext : Prop :=
  (∀ s : State, s.run = .running → ∃ t, step s = .next t) ∧ ∀ (i : Instr) (s : State), ∃ t, exec i s = .next t

/-- The program counter after any instruction that completes (40_step_engine.md §3): the advance is by 2, a taken skip by 4,
and a transfer goes to its target. -/
def Obligations.ProgramCounterLaw : Prop :=
  ∀ (i : Instr) (s t : State), exec i s = .next t → t.run ≠ .faulted → t.pc = nextPc s i

/-- A component is written by no instruction but those its row of the state table lists (10_state.md §1); `free` is the
model's own (log 5). -/
def Obligations.OnlyListedInstructionsWrite : Prop :=
  ∀ (i : Instr) (s t : State) (c : Component), exec i s = .next t → t.run ≠ .faulted → c.writtenBy i = false →
    Component.same s t c

/-- `VF` as a flag (10_state.md §3): six instructions write it, each as 0 or 1; every other leaves it unchanged unless it
names `VF` as destination. With `x = F` the flag wins (the spec's decision D7, log 10). -/
def Obligations.FlagWrittenBySixInstructions : Prop :=
  ∀ (i : Instr) (s t : State), exec i s = .next t → t.run ≠ .faulted →
    (i.writesFlag = true → t.readV 0xF = 0 ∨ t.readV 0xF = 1) ∧
    (i.writesFlag = false → i.names 0xF = false → t.readV 0xF = s.readV 0xF)

/-- The opcode a Step returns: the fetched word when the instruction completes, none while waiting, after a refusal or on a
fault (40_step_engine.md §1). That a waiting core's Step returns none, and that a faulted core's is refused, are choices:
the spec's decisions D13 (log 20) and D15 (log 7). How the output is computed is log 23. -/
def Obligations.StepReturnsExecutedOpcode : Prop :=
  ∀ s : State, (s.run ≠ .running → executedOpcode s = none) ∧
    (s.run = .running → ∀ t, step s = .next t →
      (t.run = .faulted → executedOpcode s = none) ∧ (t.run ≠ .faulted → executedOpcode s = s.fetch))

/-! ## Control flow -/

/-- R140: return. -/
def Obligations.ReturnPopsOrUnderflows : Prop :=
  ∀ s : State,
    (∀ h : 0 < s.sp.val, ∃ t, exec .ret s = .next t ∧ t.sp.val = s.sp.val - 1 ∧
      t.pc = s.stack[s.sp.val - 1]'(by omega) ∧ KeepsAllBut (only .depth) s t) ∧
    (s.sp.val = 0 → Raises (exec .ret s) (.stackUnderflow 0x00EE s.pc))

/-- R141 and R143: the two jumps; the target is unchecked and, for `BNNN`, the plain sum. -/
def Obligations.JumpsWriteTarget : Prop :=
  ∀ (nnn : Addr12) (s : State),
    (∃ t, exec (.jp nnn) s = .next t ∧ t.pc.toNat = nnn.toNat ∧ KeepsAllBut nothing s t) ∧
    (∃ t, exec (.jpV0 nnn) s = .next t ∧ t.pc.toNat = (s.readV 0).toNat + nnn.toNat ∧ KeepsAllBut nothing s t)

/-- R142: call pushes `npc` and jumps; the 17th pending call faults. -/
def Obligations.CallPushesOrOverflows : Prop :=
  ∀ (nnn : Addr12) (s : State),
    (∀ h : s.sp.val < 16, ∃ t, exec (.call nnn) s = .next t ∧ t.stack[s.sp.val] = s.pc + 2 ∧
      t.sp.val = s.sp.val + 1 ∧ t.pc.toNat = nnn.toNat ∧
      KeepsAllBut (either (only .depth) (only (.slot ⟨s.sp.val, h⟩))) s t) ∧
    (s.sp.val = 16 → Raises (exec (.call nnn) s) (.stackOverflow (BitVec.ofNat 16 (0x2000 + nnn.toNat)) s.pc))

/-- R144 to R147: the four register skips, by 2 past the next instruction, nothing else changed. -/
def Obligations.RegisterSkips : Prop :=
  ∀ (x y : Nibble) (nn : Byte) (s : State),
    (∃ t, exec (.seImm x nn) s = .next t ∧ KeepsAllBut nothing s t ∧
      t.pc = if s.readV x = nn then s.pc + 4 else s.pc + 2) ∧
    (∃ t, exec (.sneImm x nn) s = .next t ∧ KeepsAllBut nothing s t ∧
      t.pc = if s.readV x = nn then s.pc + 2 else s.pc + 4) ∧
    (∃ t, exec (.seReg x y) s = .next t ∧ KeepsAllBut nothing s t ∧
      t.pc = if s.readV x = s.readV y then s.pc + 4 else s.pc + 2) ∧
    (∃ t, exec (.sneReg x y) s = .next t ∧ KeepsAllBut nothing s t ∧
      t.pc = if s.readV x = s.readV y then s.pc + 2 else s.pc + 4)

/-- The round trip of a call and a return executed next (41_control_flow.md §2): `pc` is after the call, the depth and the
live slots are as before, and registers and memory are untouched. -/
def Obligations.CallThenReturnRoundTrip : Prop :=
  ∀ (nnn : Addr12) (s : State), s.run = .running → s.pc.toNat ≤ 4094 → s.fetch = some (encode (.call nnn)) →
    s.sp.val < 16 → nnn.toNat ≤ 4094 → s.mem.read nnn.toNat = 0x00 → s.mem.read (nnn.toNat + 1) = 0xEE →
    ∃ t u, step s = .next t ∧ t.pc.toNat = nnn.toNat ∧ step t = .next u ∧ u.pc = s.pc + 2 ∧ u.sp = s.sp ∧
      (∀ j : Fin 16, j.val < s.sp.val → u.stack[j.val] = s.stack[j.val]) ∧
      (∀ r, u.readV r = s.readV r) ∧ u.i = s.i ∧ ∀ a, u.mem.read a = s.mem.read a

/-- A core at a jump to itself stays as it is for every further Step (70_reset_and_hazards.md §3; the definition of the end
of a run is the spec's decision D26, log 21). -/
def Obligations.EndedRunStays : Prop := ∀ s : State, s.runEnded → step s = .next s

/-! ## Load, arithmetic, logic, shift, random -/

/-- R160 and R161: load and add immediate, without a flag. -/
def Obligations.LoadAndAddImmediate : Prop :=
  ∀ (x : Nibble) (nn : Byte) (s : State),
    (∃ t, exec (.ldImm x nn) s = .next t ∧ t.readV x = nn ∧ t.pc = s.pc + 2 ∧ KeepsAllBut (only (.reg x)) s t) ∧
    (∃ t, exec (.addImm x nn) s = .next t ∧ (t.readV x).toNat = ((s.readV x).toNat + nn.toNat) % 256 ∧
      t.pc = s.pc + 2 ∧ KeepsAllBut (only (.reg x)) s t)

/-- R162 to R165: copy and the three logic instructions, bit by bit, without a flag. -/
def Obligations.CopyAndLogic : Prop :=
  ∀ (x y : Nibble) (s : State),
    (∃ t, exec (.ldReg x y) s = .next t ∧ t.readV x = s.readV y ∧ t.pc = s.pc + 2 ∧ KeepsAllBut (only (.reg x)) s t) ∧
    (∃ t, exec (.orReg x y) s = .next t ∧ t.pc = s.pc + 2 ∧ KeepsAllBut (only (.reg x)) s t ∧
      ∀ j < 8, (t.readV x).getLsbD j = ((s.readV x).getLsbD j || (s.readV y).getLsbD j)) ∧
    (∃ t, exec (.andReg x y) s = .next t ∧ t.pc = s.pc + 2 ∧ KeepsAllBut (only (.reg x)) s t ∧
      ∀ j < 8, (t.readV x).getLsbD j = ((s.readV x).getLsbD j && (s.readV y).getLsbD j)) ∧
    (∃ t, exec (.xorReg x y) s = .next t ∧ t.pc = s.pc + 2 ∧ KeepsAllBut (only (.reg x)) s t ∧
      ∀ j < 8, (t.readV x).getLsbD j = ((s.readV x).getLsbD j ^^ (s.readV y).getLsbD j))

/-- The sum modulo 256 and the carry (42_load_arith_logic.md §3). That `VF` ends as the carry even when it is the
destination is the spec's decision D7 (log 10). -/
def Obligations.AddRegistersWithCarry : Prop :=
  ∀ (x y : Nibble) (s : State), ∃ t, exec (.addReg x y) s = .next t ∧
    (x ≠ 0xF → (t.readV x).toNat = ((s.readV x).toNat + (s.readV y).toNat) % 256) ∧
    t.readV 0xF = (if (s.readV x).toNat + (s.readV y).toNat > 255 then 1 else 0) ∧
    t.pc = s.pc + 2 ∧ KeepsAllBut (either (only (.reg x)) (only (.reg 0xF))) s t

/-- The two subtractions modulo 256 and the no-borrow flag (42_load_arith_logic.md §3). That the flag wins for `x = F` is
the spec's decision D7 (log 10). -/
def Obligations.SubtractRegistersNoBorrow : Prop :=
  ∀ (x y : Nibble) (s : State),
    (∃ t, exec (.subReg x y) s = .next t ∧
      (x ≠ 0xF → ((t.readV x).toNat : Int) = ((s.readV x).toNat - (s.readV y).toNat : Int) % 256) ∧
      t.readV 0xF = (if (s.readV x).toNat ≥ (s.readV y).toNat then 1 else 0) ∧
      t.pc = s.pc + 2 ∧ KeepsAllBut (either (only (.reg x)) (only (.reg 0xF))) s t) ∧
    (∃ t, exec (.subn x y) s = .next t ∧
      (x ≠ 0xF → ((t.readV x).toNat : Int) = ((s.readV y).toNat - (s.readV x).toNat : Int) % 256) ∧
      t.readV 0xF = (if (s.readV y).toNat ≥ (s.readV x).toNat then 1 else 0) ∧
      t.pc = s.pc + 2 ∧ KeepsAllBut (either (only (.reg x)) (only (.reg 0xF))) s t)

/-- The shifts by one of `Vx` and the bit shifted out (42_load_arith_logic.md §3). That the source is `Vx` and `y` plays no
part is the spec's decision D8 (log 11); that the flag wins for `x = F` is D7 (log 10). -/
def Obligations.ShiftsByOne : Prop :=
  ∀ (x y : Nibble) (s : State),
    (∃ t, exec (.shr x y) s = .next t ∧ (x ≠ 0xF → (t.readV x).toNat = (s.readV x).toNat / 2) ∧
      (t.readV 0xF).toNat = (s.readV x).toNat % 2 ∧
      t.pc = s.pc + 2 ∧ KeepsAllBut (either (only (.reg x)) (only (.reg 0xF))) s t) ∧
    (∃ t, exec (.shl x y) s = .next t ∧ (x ≠ 0xF → (t.readV x).toNat = (s.readV x).toNat * 2 % 256) ∧
      (t.readV 0xF).toNat = (s.readV x).toNat / 128 ∧
      t.pc = s.pc + 2 ∧ KeepsAllBut (either (only (.reg x)) (only (.reg 0xF))) s t)

/-- The masked random byte (42_load_arith_logic.md §4), for every value of the draw, which is a free value (D20, log 5): the
result has no bit outside the mask, and the next draw is a new one. -/
def Obligations.RandomByteMasked : Prop :=
  ∀ (x : Nibble) (nn : Byte) (s : State), ∃ t, exec (.rnd x nn) s = .next t ∧
    t.readV x = Config.draw s.free &&& nn ∧ t.readV x &&& ~~~ nn = 0 ∧ t.free = s.free + 1 ∧
    t.pc = s.pc + 2 ∧ KeepsAllBut (either (only (.reg x)) (only .free)) s t

/-! ## Index register and memory -/

/-- R190 and R192: the index register loaded, and pointed at a glyph with the whole of `Vx`. -/
def Obligations.IndexLoadedAndPointedAtGlyph : Prop :=
  ∀ (x : Nibble) (nnn : Addr12) (s : State),
    (∃ t, exec (.ldIndex nnn) s = .next t ∧ t.i.toNat = nnn.toNat ∧ t.pc = s.pc + 2 ∧ KeepsAllBut (only .index) s t) ∧
    (∃ t, exec (.ldGlyph x) s = .next t ∧ t.i.toNat = (s.readV x).toNat * 5 ∧ t.pc = s.pc + 2 ∧
      KeepsAllBut (only .index) s t)

/-- The index register plus a register, without a flag (43_index_memory.md §2); the reduction modulo 65536 is the spec's
decision D19 (log 16). -/
def Obligations.IndexPlusRegister : Prop :=
  ∀ (x : Nibble) (s : State), ∃ t, exec (.addIndex x) s = .next t ∧
    t.i.toNat = (s.i.toNat + (s.readV x).toNat) % 65536 ∧ t.pc = s.pc + 2 ∧ KeepsAllBut (only .index) s t

/-- R193: the decimal digits at `I`, `I + 1`, `I + 2`, or `OutOfBounds`. -/
def Obligations.StoreDecimalDigits : Prop :=
  ∀ (x : Nibble) (s : State),
    (s.i.toNat + 2 ≤ 4095 → ∃ t, exec (.storeBcd x) s = .next t ∧
      (t.mem.read s.i.toNat).toNat = (s.readV x).toNat / 100 ∧
      (t.mem.read (s.i.toNat + 1)).toNat = (s.readV x).toNat / 10 % 10 ∧
      (t.mem.read (s.i.toNat + 2)).toNat = (s.readV x).toNat % 10 ∧
      t.pc = s.pc + 2 ∧ KeepsAllBut (bytesFrom s.i.toNat 3) s t) ∧
    (s.i.toNat + 2 > 4095 →
      Raises (exec (.storeBcd x) s) (.outOfBounds (some (BitVec.ofNat 16 (0xF033 + x.toNat * 256))) s.pc))

/-- R194: registers `V0..Vx` into memory from `I` on, or `OutOfBounds`. -/
def Obligations.StoreRegisterBlock : Prop :=
  ∀ (x : Nibble) (s : State),
    (s.i.toNat + x.toNat ≤ 4095 → ∃ t, exec (.storeRegs x) s = .next t ∧
      (∀ r : Nibble, r.toNat ≤ x.toNat → t.mem.read (s.i.toNat + r.toNat) = s.readV r) ∧
      t.pc = s.pc + 2 ∧ KeepsAllBut (bytesFrom s.i.toNat (x.toNat + 1)) s t) ∧
    (s.i.toNat + x.toNat > 4095 →
      Raises (exec (.storeRegs x) s) (.outOfBounds (some (BitVec.ofNat 16 (0xF055 + x.toNat * 256))) s.pc))

/-- R195: registers `V0..Vx` from memory at `I` on, or `OutOfBounds`; the registers above `Vx` are unchanged. -/
def Obligations.LoadRegisterBlock : Prop :=
  ∀ (x : Nibble) (s : State),
    (s.i.toNat + x.toNat ≤ 4095 → ∃ t, exec (.loadRegs x) s = .next t ∧
      (∀ r : Nibble, r.toNat ≤ x.toNat → t.readV r = s.mem.read (s.i.toNat + r.toNat)) ∧
      t.pc = s.pc + 2 ∧ KeepsAllBut (regsUpTo x) s t) ∧
    (s.i.toNat + x.toNat > 4095 →
      Raises (exec (.loadRegs x) s) (.outOfBounds (some (BitVec.ofNat 16 (0xF065 + x.toNat * 256))) s.pc))

/-- A store is seen by the very next fetch (20_memory.md §7): where `FX55` stores the bytes of the next instruction, the next
fetch reads the registers stored, high byte first. -/
def Obligations.StoreSeenByNextFetch : Prop :=
  ∀ (x a b : Nibble) (s t : State), exec (.storeRegs x) s = .next t → t.run ≠ .faulted →
    s.i.toNat + x.toNat ≤ 4095 → a.toNat + 1 = b.toNat → b.toNat ≤ x.toNat → t.pc.toNat = s.i.toNat + a.toNat →
    t.fetch = some (opcodeOfBytes (s.readV a) (s.readV b))

/-! ## Display -/

/-- R210: every pixel unset, `dirty` set unconditionally. -/
def Obligations.ClearDisplay : Prop :=
  ∀ s : State, ∃ t, exec .cls s = .next t ∧ (∀ p, Display.pixel t.disp p = false) ∧ t.dirty = true ∧
    t.pc = s.pc + 2 ∧ KeepsAllBut (either allPixels (only .dirty)) s t

/-- Drawing a sprite (44_display.md §3): each pixel is XORed with the sprite, `VF` says whether a set pixel became unset,
`dirty` is set if a pixel changed and else kept; a row above 4095 raises `OutOfBounds`. Wrapping of every pixel is the
spec's decision D11 (log 13). -/
def Obligations.DrawSpriteXorsAndDetectsCollision : Prop :=
  ∀ (x y n : Nibble) (s : State),
    (n.toNat = 0 ∨ s.i.toNat + n.toNat - 1 ≤ 4095 → ∃ t, exec (.drw x y n) s = .next t ∧
      (∀ p, SpriteCovers s x y n p → Display.pixel t.disp p = !Display.pixel s.disp p) ∧
      (∀ p, ¬ SpriteCovers s x y n p → Display.pixel t.disp p = Display.pixel s.disp p) ∧
      ((∃ p, Display.pixel s.disp p = true ∧ Display.pixel t.disp p = false) → t.readV 0xF = 1) ∧
      ((¬ ∃ p, Display.pixel s.disp p = true ∧ Display.pixel t.disp p = false) → t.readV 0xF = 0) ∧
      ((∃ p, Display.pixel t.disp p ≠ Display.pixel s.disp p) → t.dirty = true) ∧
      ((¬ ∃ p, Display.pixel t.disp p ≠ Display.pixel s.disp p) → t.dirty = s.dirty) ∧
      t.pc = s.pc + 2 ∧ KeepsAllBut (either (either allPixels (only .dirty)) (only (.reg 0xF))) s t) ∧
    (1 ≤ n.toNat ∧ s.i.toNat + n.toNat - 1 > 4095 →
      Raises (exec (.drw x y n) s)
        (.outOfBounds (some (BitVec.ofNat 16 (0xD000 + x.toNat * 256 + y.toNat * 16 + n.toNat))) s.pc))

/-- The XOR law (44_display.md §3): a second drawing of the same sprite at the same place, with no display write between,
restores the display, and its `VF` is 1 exactly when some sprite bit lies where the display was unset before the first.
Where a sprite bit lies is a choice past an edge: every pixel wraps, by the spec's decision D11 (log 13). -/
def Obligations.DrawingTwiceRestoresDisplay : Prop :=
  ∀ (x y x' y' n : Nibble) (s t s' t' : State),
    exec (.drw x y n) s = .next t → t.run ≠ .faulted → exec (.drw x' y' n) s' = .next t' → t'.run ≠ .faulted →
    s'.disp = t.disp → (s'.readV x').toNat % 64 = (s.readV x).toNat % 64 →
    (s'.readV y').toNat % 32 = (s.readV y).toNat % 32 →
    (∀ r < n.toNat, s'.mem.read (s'.i.toNat + r) = s.mem.read (s.i.toNat + r)) →
    t'.disp = s.disp ∧
      (t'.readV 0xF = 1 ↔ ∃ p, SpriteCovers s x y n p ∧ Display.pixel s.disp p = false)

/-- The flat view of the display (60_exceptions.md §4): pixel `(x, y)` is element `y * 64 + x`, the spec's decision D23
(log 18). -/
def Obligations.DisplayViewIsRowMajor : Prop :=
  ∀ (s : State) (p : Pixel), (readDisplay s).length = 2048 ∧
    (readDisplay s)[p.y.val * 64 + p.x.val]? = some (Display.pixel s.disp p)

/-! ## Keypad and timers -/

/-- The key-conditioned skips (45_keypad_timers.md §1); an index above 15 raises `OutOfBounds`, the spec's decision D12
(log 14). -/
def Obligations.KeySkips : Prop :=
  ∀ (x : Nibble) (s : State),
    (∀ h : (s.readV x).toNat < 16,
      (∃ t, exec (.skp x) s = .next t ∧ KeepsAllBut nothing s t ∧
        t.pc = if s.readKey ⟨(s.readV x).toNat, h⟩ = true then s.pc + 4 else s.pc + 2) ∧
      (∃ t, exec (.sknp x) s = .next t ∧ KeepsAllBut nothing s t ∧
        t.pc = if s.readKey ⟨(s.readV x).toNat, h⟩ = true then s.pc + 2 else s.pc + 4)) ∧
    ((s.readV x).toNat > 15 →
      Raises (exec (.skp x) s) (.outOfBounds (some (BitVec.ofNat 16 (0xE09E + x.toNat * 256))) s.pc) ∧
      Raises (exec (.sknp x) s) (.outOfBounds (some (BitVec.ofNat 16 (0xE0A1 + x.toNat * 256))) s.pc))

/-- The key wait, both halves (45_keypad_timers.md §2): `FX0A` suspends with `pc` past it, further Steps change nothing, and
a KeyPress of a code `k` stores `k` in `Vx` and resumes. What counts as a key press is the spec's decision D14, that a Step
is a no-op meanwhile D13 (log 15, log 20). -/
def Obligations.KeyWaitSuspendsUntilKeyPress : Prop :=
  ∀ (x : Nibble) (s : State), ∃ t, exec (.waitKey x) s = .next t ∧ t.run = .waitingForKey ∧ t.waitX = x ∧
    t.pc = s.pc + 2 ∧ KeepsAllBut (either (only .run) (only .waitX)) s t ∧ step t = .next t ∧
    ∀ k : Fin 16, ∃ u, keyPress k.val t = .next u ∧ (u.readV x).toNat = k.val ∧ u.readKey k = true ∧
      u.run = .running ∧ u.pc = t.pc ∧ KeepsAllBut (either (either (only (.reg x)) (only (.key k))) (only .run)) t u

/-- R223, R224 and R225: the timers read and set. -/
def Obligations.TimerAccess : Prop :=
  ∀ (x : Nibble) (s : State),
    (∃ t, exec (.ldFromDelay x) s = .next t ∧ t.readV x = s.dt ∧ t.pc = s.pc + 2 ∧ KeepsAllBut (only (.reg x)) s t) ∧
    (∃ t, exec (.setDelay x) s = .next t ∧ t.dt = s.readV x ∧ t.pc = s.pc + 2 ∧ KeepsAllBut (only .delay) s t) ∧
    (∃ t, exec (.setSound x) s = .next t ∧ t.st = s.readV x ∧ t.pc = s.pc + 2 ∧ KeepsAllBut (only .sound) s t)

/-- No instruction but `FX18` has to do with the sound timer and none but `EX9E` and `EXA1` reads a key: another value of
either changes nothing else of the result (10_state.md §1, §6). -/
def Obligations.SoundTimerAndKeysUnread : Prop :=
  ∀ (i : Instr) (s t : State) (b : Byte) (ks : Vector Bool 16), (∀ x, i ≠ .setSound x) → (∀ x, i ≠ .skp x) →
    (∀ x, i ≠ .sknp x) → exec i s = .next t → t.run ≠ .faulted →
    exec i { s with st := b, key := ks } = .next { t with st := b, key := ks }

/-! ## Host transactions -/

/-- R253: TickDelay, running or waiting: one down with floor 0, nothing else. -/
def Obligations.TickDelayCountsDown : Prop :=
  ∀ s : State, s.run ≠ .faulted → ∃ t, tickDelay s = .next t ∧
    t.dt.toNat = (if s.dt.toNat > 0 then s.dt.toNat - 1 else 0) ∧ t.pc = s.pc ∧ KeepsAllBut (only .delay) s t

/-- TickSound likewise, and the two ticks commute (60_exceptions.md §4; that they are two transactions is the spec's decision
D17, log 15). -/
def Obligations.TickSoundCountsDownAndCommutes : Prop :=
  ∀ s : State, s.run ≠ .faulted → ∃ t d u, tickSound s = .next t ∧
    t.st.toNat = (if s.st.toNat > 0 then s.st.toNat - 1 else 0) ∧ t.pc = s.pc ∧ KeepsAllBut (only .sound) s t ∧
    tickDelay s = .next d ∧ tickDelay t = .next u ∧ tickSound d = .next u

/-- R256: KeyRelease clears the flag and never ends a wait. -/
def Obligations.KeyReleaseClearsFlag : Prop :=
  ∀ (s : State) (k : Fin 16), s.run ≠ .faulted → ∃ t, keyRelease k.val s = .next t ∧ t.readKey k = false ∧
    t.pc = s.pc ∧ KeepsAllBut (only (.key k)) s t

/-- KeyPress while running sets its flag and nothing else; a code above 15 is refused by both key transactions
(60_exceptions.md §4; D14, log 15). KeyPress while waiting is `KeyWaitSuspendsUntilKeyPress`. -/
def Obligations.KeyPressWhileRunning : Prop :=
  (∀ (s : State) (k : Fin 16), s.run = .running → ∃ t, keyPress k.val s = .next t ∧ t.readKey k = true ∧
    t.pc = s.pc ∧ KeepsAllBut (only (.key k)) s t) ∧
  ∀ (s : State) (k : Nat), k > 15 →
    keyPress k s = .refused (.keyCodeOutOfRange k) ∧ keyRelease k s = .refused (.keyCodeOutOfRange k)

/-- ClearDirty clears the flag and nothing else (60_exceptions.md §4; that only the host does is the spec's decision D18,
log 15). -/
def Obligations.ClearDirtyClearsFlag : Prop :=
  ∀ s : State, s.run ≠ .faulted → ∃ t, clearDirty s = .next t ∧ t.dirty = false ∧ t.pc = s.pc ∧
    KeepsAllBut (only .dirty) s t

/-- A faulted core refuses every transaction but Reset, and Reset brings it back to running (60_exceptions.md §2, §4; the
spec's decisions D15, D24, log 7). -/
def Obligations.FaultedLeftOnlyByReset : Prop :=
  ∀ s : State, s.run = .faulted →
    (∀ a : Transaction, (∀ image, a ≠ .reset image) → ∃ r, transact a s = .refused r) ∧
    ∀ image : List Byte, Config.entry + image.length ≤ 4096 →
      ∃ t, transact (.reset image) s = .next t ∧ t.run = .running ∧ t.fault = none

/-- A wait ends by KeyPress or Reset and by nothing else (10_state.md §8; D14, log 15). -/
def Obligations.WaitEndsOnlyByKeyPressOrReset : Prop :=
  ∀ (a : Transaction) (s t : State), s.run = .waitingForKey → transact a s = .next t →
    (∀ k, a ≠ .keyPress k) → (∀ image, a ≠ .reset image) → t.run = .waitingForKey ∧ t.waitX = s.waitX ∧ t.pc = s.pc

/-- The host's transactions leave memory, registers, `I`, `pc` and the stack alone, but for the one register of a KeyPress
that ends a wait, and Reset (20_memory.md §7). -/
def Obligations.HostTransactionsLeaveCoreAlone : Prop :=
  ∀ (a : Transaction) (s t : State), transact a s = .next t → a ≠ .step → (∀ image, a ≠ .reset image) →
    (∀ b, t.mem.read b = s.mem.read b) ∧ t.i = s.i ∧ t.pc = s.pc ∧ t.sp = s.sp ∧ t.stack = s.stack ∧
    ∀ r, t.readV r ≠ s.readV r → s.run = .waitingForKey ∧ r = s.waitX ∧ ∃ k, a = .keyPress k

/-- The delay timer changes by one down at a TickDelay, by an `FX15` of a Step, or by a Reset, and in no other way
(70_reset_and_hazards.md §3). -/
def Obligations.DelayTimerChangesOnlySo : Prop :=
  ∀ (a : Transaction) (s t : State), transact a s = .next t → t.run ≠ .faulted → t.dt ≠ s.dt →
    (a = .tickDelay ∧ t.dt.toNat + 1 = s.dt.toNat) ∨
    (a = .step ∧ ∃ x, s.fetch = some (encode (.setDelay x)) ∧ t.dt = s.readV x) ∨
    ∃ image, a = .reset image

/-! ## Reset and the invariant -/

/-- Reset for any `ENTRY`, `FONT` and image that meet its preconditions builds the state of the reset table, and else is
refused (70_reset_and_hazards.md §1, 10_state.md §9). The zeros of unloaded memory, display, `dirty`, keys and `wait_x` are
the spec's decisions D4, D5, the refusal D6 (log 3, log 4, log 19); `free` is the model's own (log 5). -/
def Obligations.ResetBuildsState : Prop :=
  ∀ (entry : Nat) (font : Vector Byte 80) (image : List Byte) (n : Nat),
    (0x050 ≤ entry ∧ entry ≤ 0xFFF ∧ entry + image.length ≤ 4096 → ∃ t, State.resetWith entry font image n = .next t ∧
      (∀ (a : Nat) (h : a < 80), t.mem.read a = font[a]) ∧
      (∀ (j : Nat) (h : j < image.length), t.mem.read (entry + j) = image[j]) ∧
      (∀ a : Nat, 80 ≤ a → a < 4096 → (a < entry ∨ entry + image.length ≤ a) → t.mem.read a = 0) ∧
      (∀ r, t.readV r = 0) ∧ t.i = 0 ∧ t.pc.toNat = entry ∧ t.sp.val = 0 ∧ (∀ j : Fin 16, t.stack[j.val] = 0) ∧
      t.dt = 0 ∧ t.st = 0 ∧ (∀ p, Display.pixel t.disp p = false) ∧ t.dirty = false ∧ (∀ k, t.readKey k = false) ∧
      t.run = .running ∧ t.waitX = 0 ∧ t.fault = none ∧ t.free = n) ∧
    (¬ (0x050 ≤ entry ∧ entry ≤ 0xFFF ∧ entry + image.length ≤ 4096) →
      State.resetWith entry font image n = .refused (.resetRefused entry image.length))

/-- `State.reset` is what Reset builds from the default `ENTRY` and `FONT` (the model's choices, log 1, log 2) and an empty
image. -/
def Obligations.ResetStateIsDefaultReset : Prop :=
  State.resetWith Config.entry Config.font [] 0 = .next State.reset

/-- The invariant holds after reset. -/
def Obligations.InvariantAtReset : Prop := State.reset.Inv

/-- Every Step keeps the invariant (10_state.md §4, §8): memory keeps its canonical form, a fault is recorded exactly in the
faulted state, and outside it `pc` is at most `0x10FE` and every return address held at most `0x1000`. -/
def Obligations.StepKeepsInvariant : Prop :=
  ∀ s t : State, s.Inv → step s = .next t → t.Inv

/-- Every sequence of transactions, Steps and host transactions in any order, keeps the invariant. -/
def Obligations.TransactionsKeepInvariant : Prop :=
  ∀ (as : List Transaction) (s : State), s.Inv → (runTransactions as s).Inv
end

