-- ==== Sys2Proof/Laws/Memory.lean ====
section
/-! SUPPORT. Main memory: read after write, and every memory operation keeps the canonical form. -/

namespace Sys2Proof.Machine

/-! ## Read after write -/

/-- Erasing an address makes it read as unlisted and leaves every other address alone. -/
theorem Memory.read_erase (m : Memory) (a c : Nat) :
    (Memory.erase m a).read c = if c = a then Memory.unlisted a else m.read c := by
  induction m with
  | nil => simp only [Memory.erase, List.filter_nil, Memory.read]; split <;> simp_all
  | cons p rest ih =>
    obtain ⟨k, b⟩ := p
    simp only [Memory.erase] at ih
    by_cases hk : k = a
    · subst hk
      simp only [Memory.erase, List.filter_cons, bne_self_eq_false, Bool.false_eq_true, ↓reduceIte, ih, Memory.read]
      split <;> simp_all
    · simp only [Memory.erase, List.filter_cons, bne_iff_ne, ne_eq, hk, not_false_eq_true, ↓reduceIte, Memory.read, ih]
      split <;> simp_all

/-- Listing a byte makes its address read as it and leaves every other address alone. -/
theorem Memory.read_insert (m : Memory) (a c : Nat) (b : Byte) :
    (Memory.insert m a b).read c = if c = a then b else m.read c := by
  induction m with
  | nil => simp [Memory.insert, Memory.read]
  | cons p rest ih =>
    obtain ⟨k, d⟩ := p
    unfold Memory.insert
    split
    · simp [Memory.read]
    · split
      · subst_vars; simp only [Memory.read]; split <;> rfl
      · simp only [Memory.read, ih]
        by_cases hc : c = k
        · subst hc; rw [if_pos rfl, if_neg (by omega), if_pos rfl]
        · rw [if_neg hc, if_neg hc]

/-- A read after a write to the same address gives the byte written; a write leaves every other address alone. -/
theorem Memory.read_write (m : Memory) (a c : Nat) (b : Byte) :
    (Memory.write m a b).read c = if c = a then b else m.read c := by
  unfold Memory.write
  split
  · simp_all [Memory.read_erase]
  · exact Memory.read_insert m a c b

/-- Consecutive bytes written read back in order; every address outside them is left alone. -/
theorem Memory.read_writeBytes (bs : List Byte) (m : Memory) (a c : Nat) :
    (Memory.writeBytes m a bs).read c =
      if h : a ≤ c ∧ c < a + bs.length then bs[c - a]'(by omega) else m.read c := by
  induction bs generalizing m a with
  | nil => simp [Memory.writeBytes]
  | cons b rest ih =>
    rw [Memory.writeBytes, ih, Memory.read_write]
    by_cases hc : c = a
    · subst hc
      simp
    · by_cases h : a + 1 ≤ c ∧ c < a + 1 + rest.length
      · have h' : a ≤ c ∧ c < a + (b :: rest).length := by simp; omega
        rw [dif_pos h, dif_pos h']
        have : c - a = (c - (a + 1)) + 1 := by omega
        simp [this]
      · have h' : ¬ (a ≤ c ∧ c < a + (b :: rest).length) := by simp at h ⊢; omega
        rw [dif_neg h, dif_neg h', if_neg hc]

@[simp] theorem Memory.length_readBytes (m : Memory) (a n : Nat) : (m.readBytes a n).length = n := by
  simp [Memory.readBytes]

@[simp] theorem Memory.getElem_readBytes (m : Memory) (a n j : Nat) (h : j < (m.readBytes a n).length) :
    (m.readBytes a n)[j] = m.read (a + j) := by
  simp [Memory.readBytes]

/-- The bounds check says that every accessed address is at most 4095 (R66). -/
theorem inBounds_eq_true (a n : Nat) : inBounds a n = true ↔ n = 0 ∨ a + n ≤ 4096 := by
  simp [inBounds, memSize]

/-- The bounds check fails exactly when something is accessed and its last address exceeds 4095 (R66). -/
theorem inBounds_eq_false (a n : Nat) : inBounds a n = false ↔ n ≠ 0 ∧ a + n > 4096 := by
  simp [inBounds, memSize]

/-- Writing what unlisted addresses read as lists nothing. -/
theorem Memory.writeBytes_unlisted (bs : List Byte) (a : Nat)
    (h : ∀ (j : Nat) (hj : j < bs.length), bs[j] = Memory.unlisted (a + j)) : Memory.writeBytes [] a bs = [] := by
  induction bs generalizing a with
  | nil => rfl
  | cons b rest ih =>
    have hb : b = Memory.unlisted a := h 0 (by simp)
    rw [Memory.writeBytes, Memory.write, if_pos hb, Memory.erase, List.filter_nil]
    refine ih (a + 1) fun j hj => ?_
    have := h (j + 1) (by simpa using hj)
    simpa [Nat.add_assoc, Nat.add_comm 1 j] using this

/-! ## The canonical form -/

/-- A canonical memory from a higher address on is one from a lower address on. -/
theorem Memory.wfFrom_mono {lo lo' : Nat} (h : lo' ≤ lo) {m : Memory} (hm : Memory.wfFrom lo m = true) :
    Memory.wfFrom lo' m = true := by
  cases m with
  | nil => rfl
  | cons p rest =>
    simp only [Memory.wfFrom, Bool.and_eq_true, decide_eq_true_eq] at hm ⊢
    exact ⟨⟨⟨by omega, hm.1.1.2⟩, hm.1.2⟩, hm.2⟩

theorem Memory.wfFrom_erase {lo : Nat} {m : Memory} (a : Nat) (hm : Memory.wfFrom lo m = true) :
    Memory.wfFrom lo (Memory.erase m a) = true := by
  induction m generalizing lo with
  | nil => rfl
  | cons p rest ih =>
    obtain ⟨k, b⟩ := p
    simp only [Memory.wfFrom, Bool.and_eq_true, decide_eq_true_eq] at hm
    have := ih hm.2
    simp only [Memory.erase, List.filter_cons] at this ⊢
    split
    · simp only [Memory.wfFrom, Bool.and_eq_true, decide_eq_true_eq]; exact ⟨hm.1, this⟩
    · exact Memory.wfFrom_mono (by omega) this

theorem Memory.wfFrom_insert {lo a : Nat} {m : Memory} {b : Byte} (hlo : lo ≤ a) (ha : a < memSize)
    (hb : b ≠ Memory.unlisted a) (hm : Memory.wfFrom lo m = true) :
    Memory.wfFrom lo (Memory.insert m a b) = true := by
  induction m generalizing lo with
  | nil => simp [Memory.insert, Memory.wfFrom, hlo, hb]; exact ha
  | cons p rest ih =>
    obtain ⟨k, c⟩ := p
    simp only [Memory.wfFrom, Bool.and_eq_true, decide_eq_true_eq] at hm
    unfold Memory.insert
    split
    · simp only [Memory.wfFrom, Bool.and_eq_true, decide_eq_true_eq, bne_iff_ne]
      exact ⟨⟨⟨hlo, ha⟩, hb⟩, ⟨⟨by omega, hm.1.1.2⟩, by simpa using hm.1.2⟩, hm.2⟩
    · split
      · subst_vars
        simp only [Memory.wfFrom, Bool.and_eq_true, decide_eq_true_eq, bne_iff_ne]
        exact ⟨⟨⟨hlo, ha⟩, hb⟩, hm.2⟩
      · simp only [Memory.wfFrom, Bool.and_eq_true, decide_eq_true_eq]
        exact ⟨hm.1, ih (by omega) hm.2⟩

/-- A write inside the address space keeps the canonical form. -/
theorem Memory.wf_write {m : Memory} {a : Nat} (b : Byte) (ha : a < memSize) (hm : m.wf = true) :
    (m.write a b).wf = true := by
  unfold Memory.write
  split
  · exact Memory.wfFrom_erase a hm
  · exact Memory.wfFrom_insert (Nat.zero_le a) ha ‹_› hm

/-- Writing consecutive bytes inside the address space keeps the canonical form. -/
theorem Memory.wf_writeBytes {bs : List Byte} {m : Memory} {a : Nat} (ha : a + bs.length ≤ memSize)
    (hm : m.wf = true) : (m.writeBytes a bs).wf = true := by
  induction bs generalizing m a with
  | nil => exact hm
  | cons b rest ih =>
    simp only [List.length_cons] at ha
    exact ih (by omega) (Memory.wf_write b (by omega) hm)

theorem Memory.wfFrom_ofRange (f : Nat → Byte) (n lo : Nat) (h : lo + n ≤ memSize) :
    Memory.wfFrom lo (((List.range' lo n).map fun a => (a, f a)).filter fun c => c.2 != Memory.unlisted c.1) = true := by
  induction n generalizing lo with
  | zero => rfl
  | succ n ih =>
    rw [List.range'_succ, List.map_cons, List.filter_cons]
    have := ih (lo + 1) (by omega)
    split
    · simp only [Memory.wfFrom, Bool.and_eq_true, decide_eq_true_eq]
      exact ⟨⟨⟨le_rfl, by omega⟩, ‹_›⟩, this⟩
    · exact Memory.wfFrom_mono (by omega) this

/-- The memory built from a function is canonical. -/
theorem Memory.wf_ofBytes (f : Nat → Byte) : (Memory.ofBytes f).wf = true := by
  unfold Memory.ofBytes Memory.wf
  rw [List.range_eq_range']
  exact Memory.wfFrom_ofRange f memSize 0 (by omega)

end Sys2Proof.Machine
end

