-- ==== Sys2Proof/Laws/Words.lean ====
section
/-! SUPPORT. The fields of a word (30_encoding.md R92) as numbers, the formats of R91 as numbers, and each against the
other. -/

namespace Sys2Proof

/-! ## Fields as numbers -/

theorem toNat_lt_word (op : Word16) : op.toNat < 65536 := op.isLt

theorem toNat_fieldClass (op : Word16) : (fieldClass op).toNat = op.toNat / 4096 := by
  have := toNat_lt_word op
  simp only [fieldClass, BitVec.extractLsb'_toNat, Nat.shiftRight_eq_div_pow]; omega

theorem toNat_fieldX (op : Word16) : (fieldX op).toNat = op.toNat / 256 % 16 := by
  simp only [fieldX, BitVec.extractLsb'_toNat, Nat.shiftRight_eq_div_pow]

theorem toNat_fieldY (op : Word16) : (fieldY op).toNat = op.toNat / 16 % 16 := by
  simp only [fieldY, BitVec.extractLsb'_toNat, Nat.shiftRight_eq_div_pow]

theorem toNat_fieldN (op : Word16) : (fieldN op).toNat = op.toNat % 16 := by
  simp only [fieldN, BitVec.extractLsb'_toNat, Nat.shiftRight_eq_div_pow]; omega

theorem toNat_fieldNN (op : Word16) : (fieldNN op).toNat = op.toNat % 256 := by
  simp only [fieldNN, BitVec.extractLsb'_toNat, Nat.shiftRight_eq_div_pow]; omega

theorem toNat_fieldNNN (op : Word16) : (fieldNNN op).toNat = op.toNat % 4096 := by
  simp only [fieldNNN, BitVec.extractLsb'_toNat, Nat.shiftRight_eq_div_pow]; omega

/-! ## Formats as numbers -/

theorem toNat_append_nat {n m : Nat} (a : BitVec n) (b : BitVec m) :
    (a ++ b).toNat = a.toNat * 2 ^ m + b.toNat := by
  rw [BitVec.toNat_append, ← Nat.shiftLeft_add_eq_or_of_lt b.isLt, Nat.shiftLeft_eq]

theorem toNat_opcodeOfBytes (hi lo : Byte) : (opcodeOfBytes hi lo).toNat = hi.toNat * 256 + lo.toNat := by
  rw [opcodeOfBytes, toNat_append_nat]; norm_num

theorem toNat_formatAddr (c : Nibble) (nnn : Addr12) : (formatAddr c nnn).toNat = c.toNat * 4096 + nnn.toNat := by
  rw [formatAddr, toNat_append_nat]; norm_num

theorem toNat_formatRimm (c x : Nibble) (nn : Byte) :
    (formatRimm c x nn).toNat = c.toNat * 4096 + x.toNat * 256 + nn.toNat := by
  rw [formatRimm, toNat_append_nat, toNat_append_nat]; norm_num; ring

theorem toNat_formatRr (c x y n : Nibble) :
    (formatRr c x y n).toNat = c.toNat * 4096 + x.toNat * 256 + y.toNat * 16 + n.toNat := by
  rw [formatRr, toNat_append_nat, toNat_append_nat, toNat_append_nat]; norm_num; ring

/-! ## The fields of a format -/

section Fields

variable (c x y n : Nibble) (nn : Byte) (nnn : Addr12)

@[simp] theorem fieldClass_formatAddr : fieldClass (formatAddr c nnn) = c := by
  have := c.isLt; have := nnn.isLt
  apply BitVec.eq_of_toNat_eq; rw [toNat_fieldClass, toNat_formatAddr]; omega

@[simp] theorem fieldNNN_formatAddr : fieldNNN (formatAddr c nnn) = nnn := by
  have := c.isLt; have := nnn.isLt
  apply BitVec.eq_of_toNat_eq; rw [toNat_fieldNNN, toNat_formatAddr]; omega

@[simp] theorem fieldClass_formatRimm : fieldClass (formatRimm c x nn) = c := by
  have := c.isLt; have := x.isLt; have := nn.isLt
  apply BitVec.eq_of_toNat_eq; rw [toNat_fieldClass, toNat_formatRimm]; omega

@[simp] theorem fieldX_formatRimm : fieldX (formatRimm c x nn) = x := by
  have := c.isLt; have := x.isLt; have := nn.isLt
  apply BitVec.eq_of_toNat_eq; rw [toNat_fieldX, toNat_formatRimm]; omega

@[simp] theorem fieldNN_formatRimm : fieldNN (formatRimm c x nn) = nn := by
  have := c.isLt; have := x.isLt; have := nn.isLt
  apply BitVec.eq_of_toNat_eq; rw [toNat_fieldNN, toNat_formatRimm]; omega

@[simp] theorem fieldClass_formatRr : fieldClass (formatRr c x y n) = c := by
  have := c.isLt; have := x.isLt; have := y.isLt; have := n.isLt
  apply BitVec.eq_of_toNat_eq; rw [toNat_fieldClass, toNat_formatRr]; omega

@[simp] theorem fieldX_formatRr : fieldX (formatRr c x y n) = x := by
  have := c.isLt; have := x.isLt; have := y.isLt; have := n.isLt
  apply BitVec.eq_of_toNat_eq; rw [toNat_fieldX, toNat_formatRr]; omega

@[simp] theorem fieldY_formatRr : fieldY (formatRr c x y n) = y := by
  have := c.isLt; have := x.isLt; have := y.isLt; have := n.isLt
  apply BitVec.eq_of_toNat_eq; rw [toNat_fieldY, toNat_formatRr]; omega

@[simp] theorem fieldN_formatRr : fieldN (formatRr c x y n) = n := by
  have := c.isLt; have := x.isLt; have := y.isLt; have := n.isLt
  apply BitVec.eq_of_toNat_eq; rw [toNat_fieldN, toNat_formatRr]; omega

end Fields

/-! ## A word from its fields -/

theorem formatAddr_fields (op : Word16) : formatAddr (fieldClass op) (fieldNNN op) = op := by
  apply BitVec.eq_of_toNat_eq
  rw [toNat_formatAddr, toNat_fieldClass, toNat_fieldNNN]; omega

theorem formatRimm_fields (op : Word16) : formatRimm (fieldClass op) (fieldX op) (fieldNN op) = op := by
  apply BitVec.eq_of_toNat_eq
  rw [toNat_formatRimm, toNat_fieldClass, toNat_fieldX, toNat_fieldNN]; omega

theorem formatRr_fields (op : Word16) : formatRr (fieldClass op) (fieldX op) (fieldY op) (fieldN op) = op := by
  apply BitVec.eq_of_toNat_eq
  rw [toNat_formatRr, toNat_fieldClass, toNat_fieldX, toNat_fieldY, toNat_fieldN]; omega

/-! ## Masks as field tests -/

/-- The mask `0xF000` keeps the class. -/
theorem and_maskClass (op : Word16) : op &&& 0xF000 = formatAddr (fieldClass op) 0 := by
  have e : (0xF000 : Word16) = BitVec.allOnes 4 ++ 0#12 := by decide
  conv_lhs => rw [← formatAddr_fields op, e, formatAddr, BitVec.and_append, BitVec.and_allOnes, BitVec.and_zero]
  rfl

/-- The mask `0xF00F` keeps the class and `n`. -/
theorem and_maskRr (op : Word16) : op &&& 0xF00F = formatRr (fieldClass op) 0 0 (fieldN op) := by
  have e : (0xF00F : Word16) = BitVec.allOnes 4 ++ 0#4 ++ 0#4 ++ BitVec.allOnes 4 := by decide
  conv_lhs => rw [← formatRr_fields op, e, formatRr, BitVec.and_append, BitVec.and_append, BitVec.and_append,
    BitVec.and_allOnes, BitVec.and_allOnes, BitVec.and_zero, BitVec.and_zero]
  rfl

/-- The mask `0xF0FF` keeps the class and `nn`. -/
theorem and_maskRsub (op : Word16) : op &&& 0xF0FF = formatRimm (fieldClass op) 0 (fieldNN op) := by
  have e : (0xF0FF : Word16) = BitVec.allOnes 4 ++ 0#4 ++ BitVec.allOnes 8 := by decide
  conv_lhs => rw [← formatRimm_fields op, e, formatRimm, BitVec.and_append, BitVec.and_append,
    BitVec.and_allOnes, BitVec.and_allOnes, BitVec.and_zero]
  rfl

/-- The mask `0xFFFF` keeps the whole word. -/
theorem and_maskWord (op : Word16) : op &&& 0xFFFF = op := by
  have e : (0xFFFF : Word16) = BitVec.allOnes 16 := by decide
  rw [e, BitVec.and_allOnes]

end Sys2Proof
end

