-- ==== Sys2Proof/Laws/PerInstr.lean ====
section
/-! SUPPORT. The statements made per instruction. -/

namespace Sys2Proof.Laws.EncodeRow

open Sys2Proof

/-- The instruction's row stands in the opcode map of R95, and its encoding, written from the formats of R91, has that row's
fixed bits. -/
def Statement (i : Instr) : Prop := i.row ∈ opcodeMap ∧ i.row.selects (encode i) = true

theorem cls : Statement .cls := ⟨by decide, by decide⟩

theorem ret : Statement .ret := ⟨by decide, by decide⟩

theorem jp (nnn : Addr12) : Statement (.jp nnn) := by
  refine ⟨by simp only [Instr.row]; decide, ?_⟩
  simp only [Row.selects, Instr.row, encode, and_maskClass, fieldClass_formatAddr]
  decide

theorem call (nnn : Addr12) : Statement (.call nnn) := by
  refine ⟨by simp only [Instr.row]; decide, ?_⟩
  simp only [Row.selects, Instr.row, encode, and_maskClass, fieldClass_formatAddr]
  decide

theorem seImm (x : Nibble) (nn : Byte) : Statement (.seImm x nn) := by
  refine ⟨by simp only [Instr.row]; decide, ?_⟩
  simp only [Row.selects, Instr.row, encode, and_maskClass, fieldClass_formatRimm]
  decide

theorem sneImm (x : Nibble) (nn : Byte) : Statement (.sneImm x nn) := by
  refine ⟨by simp only [Instr.row]; decide, ?_⟩
  simp only [Row.selects, Instr.row, encode, and_maskClass, fieldClass_formatRimm]
  decide

theorem seReg (x y : Nibble) : Statement (.seReg x y) := by
  refine ⟨by simp only [Instr.row]; decide, ?_⟩
  simp only [Row.selects, Instr.row, encode, and_maskRr, fieldClass_formatRr, fieldN_formatRr]
  decide

theorem ldImm (x : Nibble) (nn : Byte) : Statement (.ldImm x nn) := by
  refine ⟨by simp only [Instr.row]; decide, ?_⟩
  simp only [Row.selects, Instr.row, encode, and_maskClass, fieldClass_formatRimm]
  decide

theorem addImm (x : Nibble) (nn : Byte) : Statement (.addImm x nn) := by
  refine ⟨by simp only [Instr.row]; decide, ?_⟩
  simp only [Row.selects, Instr.row, encode, and_maskClass, fieldClass_formatRimm]
  decide

theorem ldReg (x y : Nibble) : Statement (.ldReg x y) := by
  refine ⟨by simp only [Instr.row]; decide, ?_⟩
  simp only [Row.selects, Instr.row, encode, and_maskRr, fieldClass_formatRr, fieldN_formatRr]
  decide

theorem orReg (x y : Nibble) : Statement (.orReg x y) := by
  refine ⟨by simp only [Instr.row]; decide, ?_⟩
  simp only [Row.selects, Instr.row, encode, and_maskRr, fieldClass_formatRr, fieldN_formatRr]
  decide

theorem andReg (x y : Nibble) : Statement (.andReg x y) := by
  refine ⟨by simp only [Instr.row]; decide, ?_⟩
  simp only [Row.selects, Instr.row, encode, and_maskRr, fieldClass_formatRr, fieldN_formatRr]
  decide

theorem xorReg (x y : Nibble) : Statement (.xorReg x y) := by
  refine ⟨by simp only [Instr.row]; decide, ?_⟩
  simp only [Row.selects, Instr.row, encode, and_maskRr, fieldClass_formatRr, fieldN_formatRr]
  decide

theorem addReg (x y : Nibble) : Statement (.addReg x y) := by
  refine ⟨by simp only [Instr.row]; decide, ?_⟩
  simp only [Row.selects, Instr.row, encode, and_maskRr, fieldClass_formatRr, fieldN_formatRr]
  decide

theorem subReg (x y : Nibble) : Statement (.subReg x y) := by
  refine ⟨by simp only [Instr.row]; decide, ?_⟩
  simp only [Row.selects, Instr.row, encode, and_maskRr, fieldClass_formatRr, fieldN_formatRr]
  decide

theorem shr (x y : Nibble) : Statement (.shr x y) := by
  refine ⟨by simp only [Instr.row]; decide, ?_⟩
  simp only [Row.selects, Instr.row, encode, and_maskRr, fieldClass_formatRr, fieldN_formatRr]
  decide

theorem subn (x y : Nibble) : Statement (.subn x y) := by
  refine ⟨by simp only [Instr.row]; decide, ?_⟩
  simp only [Row.selects, Instr.row, encode, and_maskRr, fieldClass_formatRr, fieldN_formatRr]
  decide

theorem shl (x y : Nibble) : Statement (.shl x y) := by
  refine ⟨by simp only [Instr.row]; decide, ?_⟩
  simp only [Row.selects, Instr.row, encode, and_maskRr, fieldClass_formatRr, fieldN_formatRr]
  decide

theorem sneReg (x y : Nibble) : Statement (.sneReg x y) := by
  refine ⟨by simp only [Instr.row]; decide, ?_⟩
  simp only [Row.selects, Instr.row, encode, and_maskRr, fieldClass_formatRr, fieldN_formatRr]
  decide

theorem ldIndex (nnn : Addr12) : Statement (.ldIndex nnn) := by
  refine ⟨by simp only [Instr.row]; decide, ?_⟩
  simp only [Row.selects, Instr.row, encode, and_maskClass, fieldClass_formatAddr]
  decide

theorem jpV0 (nnn : Addr12) : Statement (.jpV0 nnn) := by
  refine ⟨by simp only [Instr.row]; decide, ?_⟩
  simp only [Row.selects, Instr.row, encode, and_maskClass, fieldClass_formatAddr]
  decide

theorem rnd (x : Nibble) (nn : Byte) : Statement (.rnd x nn) := by
  refine ⟨by simp only [Instr.row]; decide, ?_⟩
  simp only [Row.selects, Instr.row, encode, and_maskClass, fieldClass_formatRimm]
  decide

theorem drw (x y n : Nibble) : Statement (.drw x y n) := by
  refine ⟨by simp only [Instr.row]; decide, ?_⟩
  simp only [Row.selects, Instr.row, encode, and_maskClass, fieldClass_formatRr]
  decide

theorem skp (x : Nibble) : Statement (.skp x) := by
  refine ⟨by simp only [Instr.row]; decide, ?_⟩
  simp only [Row.selects, Instr.row, encode, and_maskRsub, fieldClass_formatRimm, fieldNN_formatRimm]
  decide

theorem sknp (x : Nibble) : Statement (.sknp x) := by
  refine ⟨by simp only [Instr.row]; decide, ?_⟩
  simp only [Row.selects, Instr.row, encode, and_maskRsub, fieldClass_formatRimm, fieldNN_formatRimm]
  decide

theorem ldFromDelay (x : Nibble) : Statement (.ldFromDelay x) := by
  refine ⟨by simp only [Instr.row]; decide, ?_⟩
  simp only [Row.selects, Instr.row, encode, and_maskRsub, fieldClass_formatRimm, fieldNN_formatRimm]
  decide

theorem waitKey (x : Nibble) : Statement (.waitKey x) := by
  refine ⟨by simp only [Instr.row]; decide, ?_⟩
  simp only [Row.selects, Instr.row, encode, and_maskRsub, fieldClass_formatRimm, fieldNN_formatRimm]
  decide

theorem setDelay (x : Nibble) : Statement (.setDelay x) := by
  refine ⟨by simp only [Instr.row]; decide, ?_⟩
  simp only [Row.selects, Instr.row, encode, and_maskRsub, fieldClass_formatRimm, fieldNN_formatRimm]
  decide

theorem setSound (x : Nibble) : Statement (.setSound x) := by
  refine ⟨by simp only [Instr.row]; decide, ?_⟩
  simp only [Row.selects, Instr.row, encode, and_maskRsub, fieldClass_formatRimm, fieldNN_formatRimm]
  decide

theorem addIndex (x : Nibble) : Statement (.addIndex x) := by
  refine ⟨by simp only [Instr.row]; decide, ?_⟩
  simp only [Row.selects, Instr.row, encode, and_maskRsub, fieldClass_formatRimm, fieldNN_formatRimm]
  decide

theorem ldGlyph (x : Nibble) : Statement (.ldGlyph x) := by
  refine ⟨by simp only [Instr.row]; decide, ?_⟩
  simp only [Row.selects, Instr.row, encode, and_maskRsub, fieldClass_formatRimm, fieldNN_formatRimm]
  decide

theorem storeBcd (x : Nibble) : Statement (.storeBcd x) := by
  refine ⟨by simp only [Instr.row]; decide, ?_⟩
  simp only [Row.selects, Instr.row, encode, and_maskRsub, fieldClass_formatRimm, fieldNN_formatRimm]
  decide

theorem storeRegs (x : Nibble) : Statement (.storeRegs x) := by
  refine ⟨by simp only [Instr.row]; decide, ?_⟩
  simp only [Row.selects, Instr.row, encode, and_maskRsub, fieldClass_formatRimm, fieldNN_formatRimm]
  decide

theorem loadRegs (x : Nibble) : Statement (.loadRegs x) := by
  refine ⟨by simp only [Instr.row]; decide, ?_⟩
  simp only [Row.selects, Instr.row, encode, and_maskRsub, fieldClass_formatRimm, fieldNN_formatRimm]
  decide

end Sys2Proof.Laws.EncodeRow
end

