-- ==== Sys2Proof/Laws/Sprite.lean ====
section
/-! SUPPORT. What drawing a sprite does, said once: pixel by pixel, the collision and the change (44_display.md R211). -/

namespace Sys2Proof.Machine

/-- Flipping a pixel negates it and leaves every other pixel alone. -/
theorem Display.pixel_flip (d : Display) (p q : Pixel) :
    Display.pixel (Display.flip d q) p = (Display.pixel d p ^^ decide (p = q)) := by
  obtain ⟨px, py⟩ := p
  obtain ⟨qx, qy⟩ := q
  simp only [Display.pixel, Display.flip, Pixel.mk.injEq, Vector.getElem_set]
  by_cases hy : qy.val = py.val
  · have hy' : py = qy := Fin.ext hy.symm
    subst hy'
    simp
    exact Fin.val_inj
  · have hy' : ¬ py = qy := fun h => hy (by rw [h])
    simp [hy, hy']

@[simp] theorem Display.pixel_blank (p : Pixel) : Display.pixel Display.blank p = false := by
  simp [Display.pixel, Display.blank]

/-- Two displays with the same pixels are the same. -/
theorem Display.ext_pixel {d e : Display} (h : ∀ p, Display.pixel d p = Display.pixel e p) : d = e := by
  apply Vector.ext
  intro j hj
  apply BitVec.eq_of_getLsbD_eq
  intro b hb
  exact h ⟨⟨b, hb⟩, ⟨j, hj⟩⟩

/-- Drawing a list of bits on distinct pixels: each pixel is XORed with its bit, the collision is a set bit on a pixel
that was set before, the change is a set bit. -/
theorem Canvas.foldl_plot (l : List SpriteBit) (k : Canvas) (hd : l.Pairwise fun a b => a.place ≠ b.place) :
    (∀ p, Display.pixel (l.foldl Canvas.plot k).disp p =
      (Display.pixel k.disp p ^^ l.any fun b => b.bit && decide (b.place = p))) ∧
    (l.foldl Canvas.plot k).collision = (k.collision || l.any fun b => b.bit && Display.pixel k.disp b.place) ∧
    (l.foldl Canvas.plot k).changed = (k.changed || l.any fun b => b.bit) := by
  induction l generalizing k with
  | nil => simp
  | cons b rest ih =>
    rw [List.pairwise_cons] at hd
    obtain ⟨h1, h2, h3⟩ := ih (k.plot b) hd.2
    rw [List.foldl_cons]
    cases hb : b.bit with
    | false =>
      have hk : k.plot b = k := by simp [Canvas.plot, hb]
      rw [hk] at h1 h2 h3 ⊢
      simp [h1, h2, h3, hb]
    | true =>
      have hk : k.plot b = ⟨Display.flip k.disp b.place, k.collision || Display.pixel k.disp b.place, true⟩ := by
        simp [Canvas.plot, hb]
      rw [hk] at h1 h2 h3 ⊢
      refine ⟨fun p => ?_, ?_, ?_⟩
      · rw [h1, Display.pixel_flip]
        by_cases hp : b.place = p
        · have hn : (rest.any fun c => c.bit && decide (c.place = p)) = false := by
            rw [List.any_eq_false]
            intro c hc
            have : c.place ≠ p := fun h => hd.1 c hc (hp.trans h.symm)
            simp [this]
          simp [hb, hp, hn]
        · have hp' : ¬ p = b.place := fun h => hp h.symm
          simp [hb, hp, hp']
      · have hr : (rest.any fun c => c.bit && Display.pixel (Display.flip k.disp b.place) c.place) =
            rest.any fun c => c.bit && Display.pixel k.disp c.place := by
          rw [Bool.eq_iff_iff, List.any_eq_true, List.any_eq_true]
          refine exists_congr fun c => and_congr_right fun hc => ?_
          rw [Display.pixel_flip]
          simp [Ne.symm (hd.1 c hc)]
        rw [h2, hr]
        simp [hb, Bool.or_assoc]
      · rw [h3]; simp [hb]

/-- The bits of a sprite: one for each row and column. -/
theorem mem_spriteBitsFrom (vx vy : Byte) (rows : List Byte) (r : Nat) (b : SpriteBit) :
    b ∈ spriteBitsFrom vx vy r rows ↔ ∃ j, ∃ hj : j < rows.length, ∃ c, c < 8 ∧
      b = ⟨rows[j].getLsbD (7 - c), spritePlace vx vy (r + j) c⟩ := by
  induction rows generalizing r with
  | nil => simp [spriteBitsFrom]
  | cons row rest ih =>
    rw [spriteBitsFrom, List.mem_append, ih]
    simp only [rowBits, List.mem_map, List.mem_range]
    constructor
    · rintro (⟨c, hc, rfl⟩ | ⟨j, hj, c, hc, rfl⟩)
      · exact ⟨0, by simp, c, hc, rfl⟩
      · exact ⟨j + 1, by simpa using hj, c, hc, by simp [Nat.add_assoc, Nat.add_comm 1]⟩
    · rintro ⟨j, hj, c, hc, rfl⟩
      cases j with
      | zero => exact Or.inl ⟨c, hc, rfl⟩
      | succ j => exact Or.inr ⟨j, by simpa using hj, c, hc, by simp [Nat.add_assoc, Nat.add_comm 1]⟩

/-- Two places of a sprite of at most 32 rows coincide only for the same row and column (R211, corner case b). -/
theorem spritePlace_inj (vx vy : Byte) {r c r' c' : Nat} (hc : c < 8) (hc' : c' < 8) (hr : r - r' < 32) (hr' : r' - r < 32)
    (h : spritePlace vx vy r c = spritePlace vx vy r' c') : r = r' ∧ c = c' := by
  simp only [spritePlace, Pixel.mk.injEq, Fin.ext_iff, Fin.val_ofNat] at h
  omega

/-- The pixels of a sprite of at most 32 rows are distinct. -/
theorem spriteBitsFrom_distinct (vx vy : Byte) (rows : List Byte) (r : Nat) (h : rows.length ≤ 32) :
    (spriteBitsFrom vx vy r rows).Pairwise fun a b => a.place ≠ b.place := by
  induction rows generalizing r with
  | nil => exact List.Pairwise.nil
  | cons row rest ih =>
    simp only [List.length_cons] at h
    rw [spriteBitsFrom, List.pairwise_append]
    refine ⟨?_, ih (r + 1) (by omega), ?_⟩
    · rw [rowBits, List.pairwise_map]
      refine List.pairwise_lt_range.imp_of_mem fun {a b} ha hb hab he => ?_
      rw [List.mem_range] at ha hb
      have := (spritePlace_inj vx vy ha hb (by omega) (by omega) he).2
      omega
    · intro a ha b hb he
      rw [rowBits, List.mem_map] at ha
      obtain ⟨c, hc, rfl⟩ := ha
      rw [List.mem_range] at hc
      obtain ⟨j, hj, c', hc', rfl⟩ := (mem_spriteBitsFrom vx vy rest (r + 1) b).1 hb
      have := (spritePlace_inj vx vy hc hc' (by omega) (by omega) he).1
      omega

/-- The sprite has a set bit on the pixel: some row `r` and column `c` fall on it and bit `7 - c` of the row is set. -/
def spriteCovers (vx vy : Byte) (rows : List Byte) (p : Pixel) : Prop :=
  ∃ r, ∃ hr : r < rows.length, ∃ c, c < 8 ∧ rows[r].getLsbD (7 - c) = true ∧ spritePlace vx vy r c = p

theorem any_spriteBits (vx vy : Byte) (rows : List Byte) (f : Pixel → Bool) :
    ((spriteBits vx vy rows).any fun b => b.bit && f b.place) = true ↔ ∃ p, spriteCovers vx vy rows p ∧ f p = true := by
  rw [List.any_eq_true]
  simp only [spriteBits, mem_spriteBitsFrom, Nat.zero_add, Bool.and_eq_true]
  constructor
  · rintro ⟨b, ⟨j, hj, c, hc, rfl⟩, hb, hf⟩
    exact ⟨_, ⟨j, hj, c, hc, hb, rfl⟩, hf⟩
  · rintro ⟨p, ⟨j, hj, c, hc, hb, rfl⟩, hf⟩
    exact ⟨_, ⟨j, hj, c, hc, rfl⟩, hb, hf⟩

/-- A pixel after a drawing of at most 32 rows: negated where the sprite has a set bit, else as before. -/
theorem drawSprite_pixel (d : Display) (vx vy : Byte) (rows : List Byte) (h : rows.length ≤ 32) (p : Pixel) :
    (Display.pixel (drawSprite d vx vy rows).disp p = true) ↔
      ((Display.pixel d p = true ∧ ¬ spriteCovers vx vy rows p) ∨
       (Display.pixel d p = false ∧ spriteCovers vx vy rows p)) := by
  have h1 := (Canvas.foldl_plot (spriteBits vx vy rows) ⟨d, false, false⟩ (spriteBitsFrom_distinct vx vy rows 0 h)).1 p
  have hc := any_spriteBits vx vy rows (fun q => decide (q = p))
  simp only [decide_eq_true_eq, exists_eq_right] at hc
  rw [drawSprite, h1, ← hc]
  cases Display.pixel d p <;> simp

/-- The collision of a drawing of at most 32 rows: a pixel set before and covered by a set bit (R211). -/
theorem drawSprite_collision (d : Display) (vx vy : Byte) (rows : List Byte) (h : rows.length ≤ 32) :
    (drawSprite d vx vy rows).collision = true ↔ ∃ p, spriteCovers vx vy rows p ∧ Display.pixel d p = true := by
  have h2 := (Canvas.foldl_plot (spriteBits vx vy rows) ⟨d, false, false⟩ (spriteBitsFrom_distinct vx vy rows 0 h)).2.1
  rw [drawSprite, h2, Bool.false_or]
  exact any_spriteBits vx vy rows (Display.pixel d)

/-- The change of a drawing of at most 32 rows: the sprite has a set bit (R211, corner case a). -/
theorem drawSprite_changed (d : Display) (vx vy : Byte) (rows : List Byte) (h : rows.length ≤ 32) :
    (drawSprite d vx vy rows).changed = true ↔ ∃ p, spriteCovers vx vy rows p := by
  have h3 := (Canvas.foldl_plot (spriteBits vx vy rows) ⟨d, false, false⟩ (spriteBitsFrom_distinct vx vy rows 0 h)).2.2
  have hc := any_spriteBits vx vy rows (fun _ => true)
  simp only [Bool.and_true, and_true] at hc
  rw [drawSprite, h3, Bool.false_or]
  exact hc

end Sys2Proof.Machine
end

