-- ==== Sys2Proof/Laws/State.lean ====
section
/-! SUPPORT. What each named update of the state does to each field: one lemma per field per update, true by unfolding the
update once, so that no later proof unfolds it. -/

namespace Sys2Proof.Machine

variable (s : State)

/-! `State.setMem` -/

@[simp] theorem State.setMem_mem (m : Memory) : (s.setMem m).mem = m := rfl
@[simp] theorem State.setMem_v (m : Memory) : (s.setMem m).v = s.v := rfl
@[simp] theorem State.setMem_i (m : Memory) : (s.setMem m).i = s.i := rfl
@[simp] theorem State.setMem_pc (m : Memory) : (s.setMem m).pc = s.pc := rfl
@[simp] theorem State.setMem_sp (m : Memory) : (s.setMem m).sp = s.sp := rfl
@[simp] theorem State.setMem_stack (m : Memory) : (s.setMem m).stack = s.stack := rfl
@[simp] theorem State.setMem_dt (m : Memory) : (s.setMem m).dt = s.dt := rfl
@[simp] theorem State.setMem_st (m : Memory) : (s.setMem m).st = s.st := rfl
@[simp] theorem State.setMem_disp (m : Memory) : (s.setMem m).disp = s.disp := rfl
@[simp] theorem State.setMem_dirty (m : Memory) : (s.setMem m).dirty = s.dirty := rfl
@[simp] theorem State.setMem_key (m : Memory) : (s.setMem m).key = s.key := rfl
@[simp] theorem State.setMem_run (m : Memory) : (s.setMem m).run = s.run := rfl
@[simp] theorem State.setMem_waitX (m : Memory) : (s.setMem m).waitX = s.waitX := rfl
@[simp] theorem State.setMem_fault (m : Memory) : (s.setMem m).fault = s.fault := rfl
@[simp] theorem State.setMem_free (m : Memory) : (s.setMem m).free = s.free := rfl
@[simp] theorem State.setMem_readV (m : Memory) (r : Nibble) : (s.setMem m).readV r = s.readV r := rfl
@[simp] theorem State.setMem_readKey (m : Memory) (j : Fin 16) : (s.setMem m).readKey j = s.readKey j := rfl
@[simp] theorem State.setMem_npc (m : Memory) : (s.setMem m).npc = s.npc := rfl

/-! `State.writeV` -/

@[simp] theorem State.writeV_mem (x : Nibble) (b : Byte) : (s.writeV x b).mem = s.mem := rfl
@[simp] theorem State.writeV_v (x : Nibble) (b : Byte) : (s.writeV x b).v = s.v.set x.toNat b x.isLt := rfl
@[simp] theorem State.writeV_i (x : Nibble) (b : Byte) : (s.writeV x b).i = s.i := rfl
@[simp] theorem State.writeV_pc (x : Nibble) (b : Byte) : (s.writeV x b).pc = s.pc := rfl
@[simp] theorem State.writeV_sp (x : Nibble) (b : Byte) : (s.writeV x b).sp = s.sp := rfl
@[simp] theorem State.writeV_stack (x : Nibble) (b : Byte) : (s.writeV x b).stack = s.stack := rfl
@[simp] theorem State.writeV_dt (x : Nibble) (b : Byte) : (s.writeV x b).dt = s.dt := rfl
@[simp] theorem State.writeV_st (x : Nibble) (b : Byte) : (s.writeV x b).st = s.st := rfl
@[simp] theorem State.writeV_disp (x : Nibble) (b : Byte) : (s.writeV x b).disp = s.disp := rfl
@[simp] theorem State.writeV_dirty (x : Nibble) (b : Byte) : (s.writeV x b).dirty = s.dirty := rfl
@[simp] theorem State.writeV_key (x : Nibble) (b : Byte) : (s.writeV x b).key = s.key := rfl
@[simp] theorem State.writeV_run (x : Nibble) (b : Byte) : (s.writeV x b).run = s.run := rfl
@[simp] theorem State.writeV_waitX (x : Nibble) (b : Byte) : (s.writeV x b).waitX = s.waitX := rfl
@[simp] theorem State.writeV_fault (x : Nibble) (b : Byte) : (s.writeV x b).fault = s.fault := rfl
@[simp] theorem State.writeV_free (x : Nibble) (b : Byte) : (s.writeV x b).free = s.free := rfl
@[simp] theorem State.writeV_readKey (x : Nibble) (b : Byte) (j : Fin 16) : (s.writeV x b).readKey j = s.readKey j := rfl
@[simp] theorem State.writeV_npc (x : Nibble) (b : Byte) : (s.writeV x b).npc = s.npc := rfl

/-! `State.setRegs` -/

@[simp] theorem State.setRegs_mem (w : Vector Byte 16) : (s.setRegs w).mem = s.mem := rfl
@[simp] theorem State.setRegs_v (w : Vector Byte 16) : (s.setRegs w).v = w := rfl
@[simp] theorem State.setRegs_i (w : Vector Byte 16) : (s.setRegs w).i = s.i := rfl
@[simp] theorem State.setRegs_pc (w : Vector Byte 16) : (s.setRegs w).pc = s.pc := rfl
@[simp] theorem State.setRegs_sp (w : Vector Byte 16) : (s.setRegs w).sp = s.sp := rfl
@[simp] theorem State.setRegs_stack (w : Vector Byte 16) : (s.setRegs w).stack = s.stack := rfl
@[simp] theorem State.setRegs_dt (w : Vector Byte 16) : (s.setRegs w).dt = s.dt := rfl
@[simp] theorem State.setRegs_st (w : Vector Byte 16) : (s.setRegs w).st = s.st := rfl
@[simp] theorem State.setRegs_disp (w : Vector Byte 16) : (s.setRegs w).disp = s.disp := rfl
@[simp] theorem State.setRegs_dirty (w : Vector Byte 16) : (s.setRegs w).dirty = s.dirty := rfl
@[simp] theorem State.setRegs_key (w : Vector Byte 16) : (s.setRegs w).key = s.key := rfl
@[simp] theorem State.setRegs_run (w : Vector Byte 16) : (s.setRegs w).run = s.run := rfl
@[simp] theorem State.setRegs_waitX (w : Vector Byte 16) : (s.setRegs w).waitX = s.waitX := rfl
@[simp] theorem State.setRegs_fault (w : Vector Byte 16) : (s.setRegs w).fault = s.fault := rfl
@[simp] theorem State.setRegs_free (w : Vector Byte 16) : (s.setRegs w).free = s.free := rfl
@[simp] theorem State.setRegs_readKey (w : Vector Byte 16) (j : Fin 16) : (s.setRegs w).readKey j = s.readKey j := rfl
@[simp] theorem State.setRegs_npc (w : Vector Byte 16) : (s.setRegs w).npc = s.npc := rfl

/-! `State.setIndex` -/

@[simp] theorem State.setIndex_mem (a : Word16) : (s.setIndex a).mem = s.mem := rfl
@[simp] theorem State.setIndex_v (a : Word16) : (s.setIndex a).v = s.v := rfl
@[simp] theorem State.setIndex_i (a : Word16) : (s.setIndex a).i = a := rfl
@[simp] theorem State.setIndex_pc (a : Word16) : (s.setIndex a).pc = s.pc := rfl
@[simp] theorem State.setIndex_sp (a : Word16) : (s.setIndex a).sp = s.sp := rfl
@[simp] theorem State.setIndex_stack (a : Word16) : (s.setIndex a).stack = s.stack := rfl
@[simp] theorem State.setIndex_dt (a : Word16) : (s.setIndex a).dt = s.dt := rfl
@[simp] theorem State.setIndex_st (a : Word16) : (s.setIndex a).st = s.st := rfl
@[simp] theorem State.setIndex_disp (a : Word16) : (s.setIndex a).disp = s.disp := rfl
@[simp] theorem State.setIndex_dirty (a : Word16) : (s.setIndex a).dirty = s.dirty := rfl
@[simp] theorem State.setIndex_key (a : Word16) : (s.setIndex a).key = s.key := rfl
@[simp] theorem State.setIndex_run (a : Word16) : (s.setIndex a).run = s.run := rfl
@[simp] theorem State.setIndex_waitX (a : Word16) : (s.setIndex a).waitX = s.waitX := rfl
@[simp] theorem State.setIndex_fault (a : Word16) : (s.setIndex a).fault = s.fault := rfl
@[simp] theorem State.setIndex_free (a : Word16) : (s.setIndex a).free = s.free := rfl
@[simp] theorem State.setIndex_readV (a : Word16) (r : Nibble) : (s.setIndex a).readV r = s.readV r := rfl
@[simp] theorem State.setIndex_readKey (a : Word16) (j : Fin 16) : (s.setIndex a).readKey j = s.readKey j := rfl
@[simp] theorem State.setIndex_npc (a : Word16) : (s.setIndex a).npc = s.npc := rfl

/-! `State.setPc` -/

@[simp] theorem State.setPc_mem (a : Word16) : (s.setPc a).mem = s.mem := rfl
@[simp] theorem State.setPc_v (a : Word16) : (s.setPc a).v = s.v := rfl
@[simp] theorem State.setPc_i (a : Word16) : (s.setPc a).i = s.i := rfl
@[simp] theorem State.setPc_pc (a : Word16) : (s.setPc a).pc = a := rfl
@[simp] theorem State.setPc_sp (a : Word16) : (s.setPc a).sp = s.sp := rfl
@[simp] theorem State.setPc_stack (a : Word16) : (s.setPc a).stack = s.stack := rfl
@[simp] theorem State.setPc_dt (a : Word16) : (s.setPc a).dt = s.dt := rfl
@[simp] theorem State.setPc_st (a : Word16) : (s.setPc a).st = s.st := rfl
@[simp] theorem State.setPc_disp (a : Word16) : (s.setPc a).disp = s.disp := rfl
@[simp] theorem State.setPc_dirty (a : Word16) : (s.setPc a).dirty = s.dirty := rfl
@[simp] theorem State.setPc_key (a : Word16) : (s.setPc a).key = s.key := rfl
@[simp] theorem State.setPc_run (a : Word16) : (s.setPc a).run = s.run := rfl
@[simp] theorem State.setPc_waitX (a : Word16) : (s.setPc a).waitX = s.waitX := rfl
@[simp] theorem State.setPc_fault (a : Word16) : (s.setPc a).fault = s.fault := rfl
@[simp] theorem State.setPc_free (a : Word16) : (s.setPc a).free = s.free := rfl
@[simp] theorem State.setPc_readV (a : Word16) (r : Nibble) : (s.setPc a).readV r = s.readV r := rfl
@[simp] theorem State.setPc_readKey (a : Word16) (j : Fin 16) : (s.setPc a).readKey j = s.readKey j := rfl

/-! `State.advance` -/

@[simp] theorem State.advance_mem : s.advance.mem = s.mem := rfl
@[simp] theorem State.advance_v : s.advance.v = s.v := rfl
@[simp] theorem State.advance_i : s.advance.i = s.i := rfl
@[simp] theorem State.advance_pc : s.advance.pc = s.pc + 2 := rfl
@[simp] theorem State.advance_sp : s.advance.sp = s.sp := rfl
@[simp] theorem State.advance_stack : s.advance.stack = s.stack := rfl
@[simp] theorem State.advance_dt : s.advance.dt = s.dt := rfl
@[simp] theorem State.advance_st : s.advance.st = s.st := rfl
@[simp] theorem State.advance_disp : s.advance.disp = s.disp := rfl
@[simp] theorem State.advance_dirty : s.advance.dirty = s.dirty := rfl
@[simp] theorem State.advance_key : s.advance.key = s.key := rfl
@[simp] theorem State.advance_run : s.advance.run = s.run := rfl
@[simp] theorem State.advance_waitX : s.advance.waitX = s.waitX := rfl
@[simp] theorem State.advance_fault : s.advance.fault = s.fault := rfl
@[simp] theorem State.advance_free : s.advance.free = s.free := rfl
@[simp] theorem State.advance_readV (r : Nibble) : s.advance.readV r = s.readV r := rfl
@[simp] theorem State.advance_readKey (j : Fin 16) : s.advance.readKey j = s.readKey j := rfl

/-! `State.skipIf` -/

@[simp] theorem State.skipIf_mem (c : Bool) : (s.skipIf c).mem = s.mem := rfl
@[simp] theorem State.skipIf_v (c : Bool) : (s.skipIf c).v = s.v := rfl
@[simp] theorem State.skipIf_i (c : Bool) : (s.skipIf c).i = s.i := rfl
@[simp] theorem State.skipIf_pc (c : Bool) : (s.skipIf c).pc = if c then s.npc + 2 else s.npc := rfl
@[simp] theorem State.skipIf_sp (c : Bool) : (s.skipIf c).sp = s.sp := rfl
@[simp] theorem State.skipIf_stack (c : Bool) : (s.skipIf c).stack = s.stack := rfl
@[simp] theorem State.skipIf_dt (c : Bool) : (s.skipIf c).dt = s.dt := rfl
@[simp] theorem State.skipIf_st (c : Bool) : (s.skipIf c).st = s.st := rfl
@[simp] theorem State.skipIf_disp (c : Bool) : (s.skipIf c).disp = s.disp := rfl
@[simp] theorem State.skipIf_dirty (c : Bool) : (s.skipIf c).dirty = s.dirty := rfl
@[simp] theorem State.skipIf_key (c : Bool) : (s.skipIf c).key = s.key := rfl
@[simp] theorem State.skipIf_run (c : Bool) : (s.skipIf c).run = s.run := rfl
@[simp] theorem State.skipIf_waitX (c : Bool) : (s.skipIf c).waitX = s.waitX := rfl
@[simp] theorem State.skipIf_fault (c : Bool) : (s.skipIf c).fault = s.fault := rfl
@[simp] theorem State.skipIf_free (c : Bool) : (s.skipIf c).free = s.free := rfl
@[simp] theorem State.skipIf_readV (c : Bool) (r : Nibble) : (s.skipIf c).readV r = s.readV r := rfl
@[simp] theorem State.skipIf_readKey (c : Bool) (j : Fin 16) : (s.skipIf c).readKey j = s.readKey j := rfl

/-! `State.setDt` -/

@[simp] theorem State.setDt_mem (b : Byte) : (s.setDt b).mem = s.mem := rfl
@[simp] theorem State.setDt_v (b : Byte) : (s.setDt b).v = s.v := rfl
@[simp] theorem State.setDt_i (b : Byte) : (s.setDt b).i = s.i := rfl
@[simp] theorem State.setDt_pc (b : Byte) : (s.setDt b).pc = s.pc := rfl
@[simp] theorem State.setDt_sp (b : Byte) : (s.setDt b).sp = s.sp := rfl
@[simp] theorem State.setDt_stack (b : Byte) : (s.setDt b).stack = s.stack := rfl
@[simp] theorem State.setDt_dt (b : Byte) : (s.setDt b).dt = b := rfl
@[simp] theorem State.setDt_st (b : Byte) : (s.setDt b).st = s.st := rfl
@[simp] theorem State.setDt_disp (b : Byte) : (s.setDt b).disp = s.disp := rfl
@[simp] theorem State.setDt_dirty (b : Byte) : (s.setDt b).dirty = s.dirty := rfl
@[simp] theorem State.setDt_key (b : Byte) : (s.setDt b).key = s.key := rfl
@[simp] theorem State.setDt_run (b : Byte) : (s.setDt b).run = s.run := rfl
@[simp] theorem State.setDt_waitX (b : Byte) : (s.setDt b).waitX = s.waitX := rfl
@[simp] theorem State.setDt_fault (b : Byte) : (s.setDt b).fault = s.fault := rfl
@[simp] theorem State.setDt_free (b : Byte) : (s.setDt b).free = s.free := rfl
@[simp] theorem State.setDt_readV (b : Byte) (r : Nibble) : (s.setDt b).readV r = s.readV r := rfl
@[simp] theorem State.setDt_readKey (b : Byte) (j : Fin 16) : (s.setDt b).readKey j = s.readKey j := rfl
@[simp] theorem State.setDt_npc (b : Byte) : (s.setDt b).npc = s.npc := rfl

/-! `State.setSt` -/

@[simp] theorem State.setSt_mem (b : Byte) : (s.setSt b).mem = s.mem := rfl
@[simp] theorem State.setSt_v (b : Byte) : (s.setSt b).v = s.v := rfl
@[simp] theorem State.setSt_i (b : Byte) : (s.setSt b).i = s.i := rfl
@[simp] theorem State.setSt_pc (b : Byte) : (s.setSt b).pc = s.pc := rfl
@[simp] theorem State.setSt_sp (b : Byte) : (s.setSt b).sp = s.sp := rfl
@[simp] theorem State.setSt_stack (b : Byte) : (s.setSt b).stack = s.stack := rfl
@[simp] theorem State.setSt_dt (b : Byte) : (s.setSt b).dt = s.dt := rfl
@[simp] theorem State.setSt_st (b : Byte) : (s.setSt b).st = b := rfl
@[simp] theorem State.setSt_disp (b : Byte) : (s.setSt b).disp = s.disp := rfl
@[simp] theorem State.setSt_dirty (b : Byte) : (s.setSt b).dirty = s.dirty := rfl
@[simp] theorem State.setSt_key (b : Byte) : (s.setSt b).key = s.key := rfl
@[simp] theorem State.setSt_run (b : Byte) : (s.setSt b).run = s.run := rfl
@[simp] theorem State.setSt_waitX (b : Byte) : (s.setSt b).waitX = s.waitX := rfl
@[simp] theorem State.setSt_fault (b : Byte) : (s.setSt b).fault = s.fault := rfl
@[simp] theorem State.setSt_free (b : Byte) : (s.setSt b).free = s.free := rfl
@[simp] theorem State.setSt_readV (b : Byte) (r : Nibble) : (s.setSt b).readV r = s.readV r := rfl
@[simp] theorem State.setSt_readKey (b : Byte) (j : Fin 16) : (s.setSt b).readKey j = s.readKey j := rfl
@[simp] theorem State.setSt_npc (b : Byte) : (s.setSt b).npc = s.npc := rfl

/-! `State.setDisp` -/

@[simp] theorem State.setDisp_mem (d : Display) : (s.setDisp d).mem = s.mem := rfl
@[simp] theorem State.setDisp_v (d : Display) : (s.setDisp d).v = s.v := rfl
@[simp] theorem State.setDisp_i (d : Display) : (s.setDisp d).i = s.i := rfl
@[simp] theorem State.setDisp_pc (d : Display) : (s.setDisp d).pc = s.pc := rfl
@[simp] theorem State.setDisp_sp (d : Display) : (s.setDisp d).sp = s.sp := rfl
@[simp] theorem State.setDisp_stack (d : Display) : (s.setDisp d).stack = s.stack := rfl
@[simp] theorem State.setDisp_dt (d : Display) : (s.setDisp d).dt = s.dt := rfl
@[simp] theorem State.setDisp_st (d : Display) : (s.setDisp d).st = s.st := rfl
@[simp] theorem State.setDisp_disp (d : Display) : (s.setDisp d).disp = d := rfl
@[simp] theorem State.setDisp_dirty (d : Display) : (s.setDisp d).dirty = s.dirty := rfl
@[simp] theorem State.setDisp_key (d : Display) : (s.setDisp d).key = s.key := rfl
@[simp] theorem State.setDisp_run (d : Display) : (s.setDisp d).run = s.run := rfl
@[simp] theorem State.setDisp_waitX (d : Display) : (s.setDisp d).waitX = s.waitX := rfl
@[simp] theorem State.setDisp_fault (d : Display) : (s.setDisp d).fault = s.fault := rfl
@[simp] theorem State.setDisp_free (d : Display) : (s.setDisp d).free = s.free := rfl
@[simp] theorem State.setDisp_readV (d : Display) (r : Nibble) : (s.setDisp d).readV r = s.readV r := rfl
@[simp] theorem State.setDisp_readKey (d : Display) (j : Fin 16) : (s.setDisp d).readKey j = s.readKey j := rfl
@[simp] theorem State.setDisp_npc (d : Display) : (s.setDisp d).npc = s.npc := rfl

/-! `State.setDirty` -/

@[simp] theorem State.setDirty_mem (b : Bool) : (s.setDirty b).mem = s.mem := rfl
@[simp] theorem State.setDirty_v (b : Bool) : (s.setDirty b).v = s.v := rfl
@[simp] theorem State.setDirty_i (b : Bool) : (s.setDirty b).i = s.i := rfl
@[simp] theorem State.setDirty_pc (b : Bool) : (s.setDirty b).pc = s.pc := rfl
@[simp] theorem State.setDirty_sp (b : Bool) : (s.setDirty b).sp = s.sp := rfl
@[simp] theorem State.setDirty_stack (b : Bool) : (s.setDirty b).stack = s.stack := rfl
@[simp] theorem State.setDirty_dt (b : Bool) : (s.setDirty b).dt = s.dt := rfl
@[simp] theorem State.setDirty_st (b : Bool) : (s.setDirty b).st = s.st := rfl
@[simp] theorem State.setDirty_disp (b : Bool) : (s.setDirty b).disp = s.disp := rfl
@[simp] theorem State.setDirty_dirty (b : Bool) : (s.setDirty b).dirty = b := rfl
@[simp] theorem State.setDirty_key (b : Bool) : (s.setDirty b).key = s.key := rfl
@[simp] theorem State.setDirty_run (b : Bool) : (s.setDirty b).run = s.run := rfl
@[simp] theorem State.setDirty_waitX (b : Bool) : (s.setDirty b).waitX = s.waitX := rfl
@[simp] theorem State.setDirty_fault (b : Bool) : (s.setDirty b).fault = s.fault := rfl
@[simp] theorem State.setDirty_free (b : Bool) : (s.setDirty b).free = s.free := rfl
@[simp] theorem State.setDirty_readV (b : Bool) (r : Nibble) : (s.setDirty b).readV r = s.readV r := rfl
@[simp] theorem State.setDirty_readKey (b : Bool) (j : Fin 16) : (s.setDirty b).readKey j = s.readKey j := rfl
@[simp] theorem State.setDirty_npc (b : Bool) : (s.setDirty b).npc = s.npc := rfl

/-! `State.writeKey` -/

@[simp] theorem State.writeKey_mem (k : Fin 16) (b : Bool) : (s.writeKey k b).mem = s.mem := rfl
@[simp] theorem State.writeKey_v (k : Fin 16) (b : Bool) : (s.writeKey k b).v = s.v := rfl
@[simp] theorem State.writeKey_i (k : Fin 16) (b : Bool) : (s.writeKey k b).i = s.i := rfl
@[simp] theorem State.writeKey_pc (k : Fin 16) (b : Bool) : (s.writeKey k b).pc = s.pc := rfl
@[simp] theorem State.writeKey_sp (k : Fin 16) (b : Bool) : (s.writeKey k b).sp = s.sp := rfl
@[simp] theorem State.writeKey_stack (k : Fin 16) (b : Bool) : (s.writeKey k b).stack = s.stack := rfl
@[simp] theorem State.writeKey_dt (k : Fin 16) (b : Bool) : (s.writeKey k b).dt = s.dt := rfl
@[simp] theorem State.writeKey_st (k : Fin 16) (b : Bool) : (s.writeKey k b).st = s.st := rfl
@[simp] theorem State.writeKey_disp (k : Fin 16) (b : Bool) : (s.writeKey k b).disp = s.disp := rfl
@[simp] theorem State.writeKey_dirty (k : Fin 16) (b : Bool) : (s.writeKey k b).dirty = s.dirty := rfl
@[simp] theorem State.writeKey_key (k : Fin 16) (b : Bool) : (s.writeKey k b).key = s.key.set k.val b := rfl
@[simp] theorem State.writeKey_run (k : Fin 16) (b : Bool) : (s.writeKey k b).run = s.run := rfl
@[simp] theorem State.writeKey_waitX (k : Fin 16) (b : Bool) : (s.writeKey k b).waitX = s.waitX := rfl
@[simp] theorem State.writeKey_fault (k : Fin 16) (b : Bool) : (s.writeKey k b).fault = s.fault := rfl
@[simp] theorem State.writeKey_free (k : Fin 16) (b : Bool) : (s.writeKey k b).free = s.free := rfl
@[simp] theorem State.writeKey_readV (k : Fin 16) (b : Bool) (r : Nibble) : (s.writeKey k b).readV r = s.readV r := rfl
@[simp] theorem State.writeKey_npc (k : Fin 16) (b : Bool) : (s.writeKey k b).npc = s.npc := rfl

/-! `State.enterWait` -/

@[simp] theorem State.enterWait_mem (x : Nibble) : (s.enterWait x).mem = s.mem := rfl
@[simp] theorem State.enterWait_v (x : Nibble) : (s.enterWait x).v = s.v := rfl
@[simp] theorem State.enterWait_i (x : Nibble) : (s.enterWait x).i = s.i := rfl
@[simp] theorem State.enterWait_pc (x : Nibble) : (s.enterWait x).pc = s.pc := rfl
@[simp] theorem State.enterWait_sp (x : Nibble) : (s.enterWait x).sp = s.sp := rfl
@[simp] theorem State.enterWait_stack (x : Nibble) : (s.enterWait x).stack = s.stack := rfl
@[simp] theorem State.enterWait_dt (x : Nibble) : (s.enterWait x).dt = s.dt := rfl
@[simp] theorem State.enterWait_st (x : Nibble) : (s.enterWait x).st = s.st := rfl
@[simp] theorem State.enterWait_disp (x : Nibble) : (s.enterWait x).disp = s.disp := rfl
@[simp] theorem State.enterWait_dirty (x : Nibble) : (s.enterWait x).dirty = s.dirty := rfl
@[simp] theorem State.enterWait_key (x : Nibble) : (s.enterWait x).key = s.key := rfl
@[simp] theorem State.enterWait_run (x : Nibble) : (s.enterWait x).run = .waitingForKey := rfl
@[simp] theorem State.enterWait_waitX (x : Nibble) : (s.enterWait x).waitX = x := rfl
@[simp] theorem State.enterWait_fault (x : Nibble) : (s.enterWait x).fault = s.fault := rfl
@[simp] theorem State.enterWait_free (x : Nibble) : (s.enterWait x).free = s.free := rfl
@[simp] theorem State.enterWait_readV (x : Nibble) (r : Nibble) : (s.enterWait x).readV r = s.readV r := rfl
@[simp] theorem State.enterWait_readKey (x : Nibble) (j : Fin 16) : (s.enterWait x).readKey j = s.readKey j := rfl
@[simp] theorem State.enterWait_npc (x : Nibble) : (s.enterWait x).npc = s.npc := rfl

/-! `State.setRun` -/

@[simp] theorem State.setRun_mem (r : RunState) : (s.setRun r).mem = s.mem := rfl
@[simp] theorem State.setRun_v (r : RunState) : (s.setRun r).v = s.v := rfl
@[simp] theorem State.setRun_i (r : RunState) : (s.setRun r).i = s.i := rfl
@[simp] theorem State.setRun_pc (r : RunState) : (s.setRun r).pc = s.pc := rfl
@[simp] theorem State.setRun_sp (r : RunState) : (s.setRun r).sp = s.sp := rfl
@[simp] theorem State.setRun_stack (r : RunState) : (s.setRun r).stack = s.stack := rfl
@[simp] theorem State.setRun_dt (r : RunState) : (s.setRun r).dt = s.dt := rfl
@[simp] theorem State.setRun_st (r : RunState) : (s.setRun r).st = s.st := rfl
@[simp] theorem State.setRun_disp (r : RunState) : (s.setRun r).disp = s.disp := rfl
@[simp] theorem State.setRun_dirty (r : RunState) : (s.setRun r).dirty = s.dirty := rfl
@[simp] theorem State.setRun_key (r : RunState) : (s.setRun r).key = s.key := rfl
@[simp] theorem State.setRun_run (r : RunState) : (s.setRun r).run = r := rfl
@[simp] theorem State.setRun_waitX (r : RunState) : (s.setRun r).waitX = s.waitX := rfl
@[simp] theorem State.setRun_fault (r : RunState) : (s.setRun r).fault = s.fault := rfl
@[simp] theorem State.setRun_free (r : RunState) : (s.setRun r).free = s.free := rfl
@[simp] theorem State.setRun_readV (u : RunState) (r : Nibble) : (s.setRun u).readV r = s.readV r := rfl
@[simp] theorem State.setRun_readKey (r : RunState) (j : Fin 16) : (s.setRun r).readKey j = s.readKey j := rfl
@[simp] theorem State.setRun_npc (r : RunState) : (s.setRun r).npc = s.npc := rfl

/-! `State.spendFree` -/

@[simp] theorem State.spendFree_mem : s.spendFree.mem = s.mem := rfl
@[simp] theorem State.spendFree_v : s.spendFree.v = s.v := rfl
@[simp] theorem State.spendFree_i : s.spendFree.i = s.i := rfl
@[simp] theorem State.spendFree_pc : s.spendFree.pc = s.pc := rfl
@[simp] theorem State.spendFree_sp : s.spendFree.sp = s.sp := rfl
@[simp] theorem State.spendFree_stack : s.spendFree.stack = s.stack := rfl
@[simp] theorem State.spendFree_dt : s.spendFree.dt = s.dt := rfl
@[simp] theorem State.spendFree_st : s.spendFree.st = s.st := rfl
@[simp] theorem State.spendFree_disp : s.spendFree.disp = s.disp := rfl
@[simp] theorem State.spendFree_dirty : s.spendFree.dirty = s.dirty := rfl
@[simp] theorem State.spendFree_key : s.spendFree.key = s.key := rfl
@[simp] theorem State.spendFree_run : s.spendFree.run = s.run := rfl
@[simp] theorem State.spendFree_waitX : s.spendFree.waitX = s.waitX := rfl
@[simp] theorem State.spendFree_fault : s.spendFree.fault = s.fault := rfl
@[simp] theorem State.spendFree_free : s.spendFree.free = s.free + 1 := rfl
@[simp] theorem State.spendFree_readV (r : Nibble) : s.spendFree.readV r = s.readV r := rfl
@[simp] theorem State.spendFree_readKey (j : Fin 16) : s.spendFree.readKey j = s.readKey j := rfl
@[simp] theorem State.spendFree_npc : s.spendFree.npc = s.npc := rfl

/-! `State.writeFlag` -/

@[simp] theorem State.writeFlag_mem (c : Bool) : (s.writeFlag c).mem = s.mem := rfl
@[simp] theorem State.writeFlag_v (c : Bool) : (s.writeFlag c).v = s.v.set 15 (flagByte c) := rfl
@[simp] theorem State.writeFlag_i (c : Bool) : (s.writeFlag c).i = s.i := rfl
@[simp] theorem State.writeFlag_pc (c : Bool) : (s.writeFlag c).pc = s.pc := rfl
@[simp] theorem State.writeFlag_sp (c : Bool) : (s.writeFlag c).sp = s.sp := rfl
@[simp] theorem State.writeFlag_stack (c : Bool) : (s.writeFlag c).stack = s.stack := rfl
@[simp] theorem State.writeFlag_dt (c : Bool) : (s.writeFlag c).dt = s.dt := rfl
@[simp] theorem State.writeFlag_st (c : Bool) : (s.writeFlag c).st = s.st := rfl
@[simp] theorem State.writeFlag_disp (c : Bool) : (s.writeFlag c).disp = s.disp := rfl
@[simp] theorem State.writeFlag_dirty (c : Bool) : (s.writeFlag c).dirty = s.dirty := rfl
@[simp] theorem State.writeFlag_key (c : Bool) : (s.writeFlag c).key = s.key := rfl
@[simp] theorem State.writeFlag_run (c : Bool) : (s.writeFlag c).run = s.run := rfl
@[simp] theorem State.writeFlag_waitX (c : Bool) : (s.writeFlag c).waitX = s.waitX := rfl
@[simp] theorem State.writeFlag_fault (c : Bool) : (s.writeFlag c).fault = s.fault := rfl
@[simp] theorem State.writeFlag_free (c : Bool) : (s.writeFlag c).free = s.free := rfl
@[simp] theorem State.writeFlag_readKey (c : Bool) (j : Fin 16) : (s.writeFlag c).readKey j = s.readKey j := rfl
@[simp] theorem State.writeFlag_npc (c : Bool) : (s.writeFlag c).npc = s.npc := rfl

/-! `State.writeResultFlag` -/

@[simp] theorem State.writeResultFlag_mem (x : Nibble) (r : Byte) (c : Bool) : (s.writeResultFlag x r c).mem = s.mem := rfl
@[simp] theorem State.writeResultFlag_v (x : Nibble) (r : Byte) (c : Bool) : (s.writeResultFlag x r c).v = (s.v.set x.toNat r x.isLt).set 15 (flagByte c) := rfl
@[simp] theorem State.writeResultFlag_i (x : Nibble) (r : Byte) (c : Bool) : (s.writeResultFlag x r c).i = s.i := rfl
@[simp] theorem State.writeResultFlag_pc (x : Nibble) (r : Byte) (c : Bool) : (s.writeResultFlag x r c).pc = s.pc := rfl
@[simp] theorem State.writeResultFlag_sp (x : Nibble) (r : Byte) (c : Bool) : (s.writeResultFlag x r c).sp = s.sp := rfl
@[simp] theorem State.writeResultFlag_stack (x : Nibble) (r : Byte) (c : Bool) : (s.writeResultFlag x r c).stack = s.stack := rfl
@[simp] theorem State.writeResultFlag_dt (x : Nibble) (r : Byte) (c : Bool) : (s.writeResultFlag x r c).dt = s.dt := rfl
@[simp] theorem State.writeResultFlag_st (x : Nibble) (r : Byte) (c : Bool) : (s.writeResultFlag x r c).st = s.st := rfl
@[simp] theorem State.writeResultFlag_disp (x : Nibble) (r : Byte) (c : Bool) : (s.writeResultFlag x r c).disp = s.disp := rfl
@[simp] theorem State.writeResultFlag_dirty (x : Nibble) (r : Byte) (c : Bool) : (s.writeResultFlag x r c).dirty = s.dirty := rfl
@[simp] theorem State.writeResultFlag_key (x : Nibble) (r : Byte) (c : Bool) : (s.writeResultFlag x r c).key = s.key := rfl
@[simp] theorem State.writeResultFlag_run (x : Nibble) (r : Byte) (c : Bool) : (s.writeResultFlag x r c).run = s.run := rfl
@[simp] theorem State.writeResultFlag_waitX (x : Nibble) (r : Byte) (c : Bool) : (s.writeResultFlag x r c).waitX = s.waitX := rfl
@[simp] theorem State.writeResultFlag_fault (x : Nibble) (r : Byte) (c : Bool) : (s.writeResultFlag x r c).fault = s.fault := rfl
@[simp] theorem State.writeResultFlag_free (x : Nibble) (r : Byte) (c : Bool) : (s.writeResultFlag x r c).free = s.free := rfl
@[simp] theorem State.writeResultFlag_readKey (x : Nibble) (r : Byte) (c : Bool) (j : Fin 16) : (s.writeResultFlag x r c).readKey j = s.readKey j := rfl
@[simp] theorem State.writeResultFlag_npc (x : Nibble) (r : Byte) (c : Bool) : (s.writeResultFlag x r c).npc = s.npc := rfl

/-! `State.writeBlock` -/

@[simp] theorem State.writeBlock_mem (bs : List Byte) : (s.writeBlock bs).mem = s.mem.writeBytes s.i.toNat bs := rfl
@[simp] theorem State.writeBlock_v (bs : List Byte) : (s.writeBlock bs).v = s.v := rfl
@[simp] theorem State.writeBlock_i (bs : List Byte) : (s.writeBlock bs).i = s.i := rfl
@[simp] theorem State.writeBlock_pc (bs : List Byte) : (s.writeBlock bs).pc = s.pc := rfl
@[simp] theorem State.writeBlock_sp (bs : List Byte) : (s.writeBlock bs).sp = s.sp := rfl
@[simp] theorem State.writeBlock_stack (bs : List Byte) : (s.writeBlock bs).stack = s.stack := rfl
@[simp] theorem State.writeBlock_dt (bs : List Byte) : (s.writeBlock bs).dt = s.dt := rfl
@[simp] theorem State.writeBlock_st (bs : List Byte) : (s.writeBlock bs).st = s.st := rfl
@[simp] theorem State.writeBlock_disp (bs : List Byte) : (s.writeBlock bs).disp = s.disp := rfl
@[simp] theorem State.writeBlock_dirty (bs : List Byte) : (s.writeBlock bs).dirty = s.dirty := rfl
@[simp] theorem State.writeBlock_key (bs : List Byte) : (s.writeBlock bs).key = s.key := rfl
@[simp] theorem State.writeBlock_run (bs : List Byte) : (s.writeBlock bs).run = s.run := rfl
@[simp] theorem State.writeBlock_waitX (bs : List Byte) : (s.writeBlock bs).waitX = s.waitX := rfl
@[simp] theorem State.writeBlock_fault (bs : List Byte) : (s.writeBlock bs).fault = s.fault := rfl
@[simp] theorem State.writeBlock_free (bs : List Byte) : (s.writeBlock bs).free = s.free := rfl
@[simp] theorem State.writeBlock_readV (bs : List Byte) (r : Nibble) : (s.writeBlock bs).readV r = s.readV r := rfl
@[simp] theorem State.writeBlock_readKey (bs : List Byte) (j : Fin 16) : (s.writeBlock bs).readKey j = s.readKey j := rfl
@[simp] theorem State.writeBlock_npc (bs : List Byte) : (s.writeBlock bs).npc = s.npc := rfl

/-! `State.loadRegBlock` -/

@[simp] theorem State.loadRegBlock_mem (x : Nibble) : (s.loadRegBlock x).mem = s.mem := State.setRegs_mem s _
@[simp] theorem State.loadRegBlock_i (x : Nibble) : (s.loadRegBlock x).i = s.i := State.setRegs_i s _
@[simp] theorem State.loadRegBlock_pc (x : Nibble) : (s.loadRegBlock x).pc = s.pc := State.setRegs_pc s _
@[simp] theorem State.loadRegBlock_sp (x : Nibble) : (s.loadRegBlock x).sp = s.sp := State.setRegs_sp s _
@[simp] theorem State.loadRegBlock_stack (x : Nibble) : (s.loadRegBlock x).stack = s.stack := State.setRegs_stack s _
@[simp] theorem State.loadRegBlock_dt (x : Nibble) : (s.loadRegBlock x).dt = s.dt := State.setRegs_dt s _
@[simp] theorem State.loadRegBlock_st (x : Nibble) : (s.loadRegBlock x).st = s.st := State.setRegs_st s _
@[simp] theorem State.loadRegBlock_disp (x : Nibble) : (s.loadRegBlock x).disp = s.disp := State.setRegs_disp s _
@[simp] theorem State.loadRegBlock_dirty (x : Nibble) : (s.loadRegBlock x).dirty = s.dirty := State.setRegs_dirty s _
@[simp] theorem State.loadRegBlock_key (x : Nibble) : (s.loadRegBlock x).key = s.key := State.setRegs_key s _
@[simp] theorem State.loadRegBlock_run (x : Nibble) : (s.loadRegBlock x).run = s.run := State.setRegs_run s _
@[simp] theorem State.loadRegBlock_waitX (x : Nibble) : (s.loadRegBlock x).waitX = s.waitX := State.setRegs_waitX s _
@[simp] theorem State.loadRegBlock_fault (x : Nibble) : (s.loadRegBlock x).fault = s.fault := State.setRegs_fault s _
@[simp] theorem State.loadRegBlock_free (x : Nibble) : (s.loadRegBlock x).free = s.free := State.setRegs_free s _
@[simp] theorem State.loadRegBlock_readKey (x : Nibble) (j : Fin 16) : (s.loadRegBlock x).readKey j = s.readKey j := State.setRegs_readKey s _ j
@[simp] theorem State.loadRegBlock_npc (x : Nibble) : (s.loadRegBlock x).npc = s.npc := State.setRegs_npc s _

/-! Registers and keys: read after write. -/

theorem State.readV_eq (x : Nibble) : s.readV x = s.v[x.toNat]'x.isLt := rfl

theorem State.npc_eq : s.npc = s.pc + 2 := rfl

/-- Reading a register after a write: the value written at that register, the old value at any other. -/
@[simp] theorem State.readV_writeV (x y : Nibble) (b : Byte) :
    (s.writeV x b).readV y = if y = x then b else s.readV y := by
  have h : x.toNat = y.toNat ↔ y = x := by rw [← BitVec.toNat_inj]; exact eq_comm
  simp [State.readV, Vector.getElem_set, h]

/-- Reading a register after a flag write: the flag in `VF`, the old value elsewhere. -/
@[simp] theorem State.readV_writeFlag (y : Nibble) (c : Bool) :
    (s.writeFlag c).readV y = if y = flagReg then flagByte c else s.readV y := by
  simp [State.writeFlag]

/-- Reading a register after a result and its flag: the flag in `VF`, the result in `Vx` unless that is `VF`. -/
@[simp] theorem State.readV_writeResultFlag (x y : Nibble) (r : Byte) (c : Bool) :
    (s.writeResultFlag x r c).readV y =
      if y = flagReg then flagByte c else if y = x then r else s.readV y := by
  simp [State.writeResultFlag]

/-- Reading a key flag after a write. -/
@[simp] theorem State.readKey_writeKey (k j : Fin 16) (b : Bool) :
    (s.writeKey k b).readKey j = if j = k then b else s.readKey j := by
  have h : k.val = j.val ↔ j = k := by rw [← Fin.val_inj]; exact eq_comm
  simp [State.readKey, Vector.getElem_set, h]

/-- Reading a register after the block load of `FX65`: memory for `V0..Vx`, the old value above (R195). -/
@[simp] theorem State.readV_loadRegBlock (x y : Nibble) :
    (s.loadRegBlock x).readV y =
      if y.toNat ≤ x.toNat then s.mem.read (s.i.toNat + y.toNat) else s.readV y := by
  simp [State.loadRegBlock, State.readV, regCount]

/-! The call stack. -/

/-- A push succeeds exactly when fewer than 16 addresses are held, and then writes the slot at the depth and raises it. -/
theorem State.push_eq_some (a : Word16) (t : State) :
    s.push a = some t ↔ ∃ h : s.sp.val < 16,
      t = { s with stack := s.stack.set s.sp.val a h, sp := ⟨s.sp.val + 1, Nat.succ_lt_succ h⟩ } := by
  unfold State.push
  split <;> simp_all [eq_comm]

theorem State.push_eq_none (a : Word16) : s.push a = none ↔ s.sp.val = 16 := by
  unfold State.push
  have := s.sp.isLt
  split <;> simp <;> omega

/-- A pop succeeds exactly when the stack is not empty, answers the top and lowers the depth. -/
theorem State.pop_eq_some (a : Word16) (t : State) :
    s.pop = some (a, t) ↔ ∃ h : 0 < s.sp.val,
      a = s.stack[s.sp.val - 1]'(by omega) ∧ t = { s with sp := ⟨s.sp.val - 1, by omega⟩ } := by
  unfold State.pop
  split <;> simp_all [eq_comm]

theorem State.pop_eq_none : s.pop = none ↔ s.sp.val = 0 := by
  unfold State.pop
  split <;> simp <;> omega

/-! Taking a fault. -/

@[simp] theorem State.enterFault_run (f : Fault) : (s.enterFault f).run = .faulted := rfl

@[simp] theorem State.enterFault_fault (f : Fault) : (s.enterFault f).fault = some f := rfl

@[simp] theorem State.enterFault_free (f : Fault) : (s.enterFault f).free = s.free + 1 := rfl

@[simp] theorem State.enterFault_mem (f : Fault) :
    (s.enterFault f).mem = Memory.ofBytes (Config.voidByte s.free) := rfl

/-- All that raising a fault does: a next state, faulted, with the record; every other component is void (R244). -/
theorem raise_eq_next (f : Fault) (t : State) : raise f s = .next t ↔ t = s.enterFault f := by
  unfold raise
  rw [Host.Outcome.next.injEq, eq_comm]

end Sys2Proof.Machine
end

