-- ==== Sys2Proof/Laws/Step.lean ====
section
/-! SUPPORT. What the fetch, a Step, placing an instruction and the gate of the host's transactions can do, said once each;
and the memory a default Reset builds. -/

namespace Sys2Proof.Machine

/-! ## Fetch -/

theorem State.fetch_some (s : State) (h : s.pc.toNat ≤ 4094) :
    s.fetch = some (opcodeOfBytes (s.mem.read s.pc.toNat) (s.mem.read (s.pc.toNat + 1))) := by
  rw [State.fetch, if_pos ((inBounds_eq_true _ _).2 (by omega))]

theorem State.fetch_none (s : State) (h : s.pc.toNat > 4094) : s.fetch = none := by
  have hb : inBounds s.pc.toNat 2 = false := (inBounds_eq_false _ _).2 (by omega)
  simp [State.fetch, hb]

theorem State.pc_le_of_fetch {s : State} {op : Word16} (h : s.fetch = some op) : s.pc.toNat ≤ 4094 := by
  by_contra hp
  rw [s.fetch_none (by omega)] at h
  cases h

/-- The fetch depends on the program counter and memory alone. -/
theorem State.fetch_congr {s t : State} (hp : t.pc = s.pc) (hm : t.mem = s.mem) : t.fetch = s.fetch := by
  simp only [State.fetch, hp, hm]

/-! ## Step -/

theorem step_faulted {s : State} (h : s.run = .faulted) : step s = .refused (.coreFaulted s.fault) := by
  simp only [step, h]

theorem step_waiting {s : State} (h : s.run = .waitingForKey) : step s = .next s := by
  simp only [step, h]

theorem step_exec {s : State} {op : Word16} {i : Instr} (h : s.run = .running) (hf : s.fetch = some op)
    (hd : decodeWord op = .ok i) : step s = exec i s := by
  simp only [step, h, hf, hd]

/-- Everything a Step can do that answers a next state. -/
theorem step_cases {s t : State} (h : step s = .next t) :
    (s.run = .waitingForKey ∧ t = s) ∨
    (s.run = .running ∧ s.pc.toNat > 4094 ∧ t = s.enterFault (.outOfBounds none s.pc)) ∨
    (s.run = .running ∧ ∃ op e, s.fetch = some op ∧ decodeWord op = .error e ∧
      t = s.enterFault (.unknownOpcode op s.pc)) ∨
    (s.run = .running ∧ ∃ op i, s.fetch = some op ∧ decodeWord op = .ok i ∧ exec i s = .next t) := by
  unfold step at h
  split at h
  · cases h
  · cases h; exact .inl ⟨‹_›, rfl⟩
  · rename_i hr
    split at h
    · rename_i hf
      cases h
      refine .inr (.inl ⟨hr, ?_, rfl⟩)
      by_contra hp
      rw [s.fetch_some (by omega)] at hf
      cases hf
    · rename_i op hf
      split at h
      · rename_i e hd; cases h; exact .inr (.inr (.inl ⟨hr, op, e, hf, hd, rfl⟩))
      · rename_i i hd; exact .inr (.inr (.inr ⟨hr, op, i, hf, hd, h⟩))

/-- Where the two bytes fit, `withFetchWord` stores them and changes nothing else. -/
theorem State.withFetchWord_eq (s : State) (w : Nat) (h : s.pc.toNat ≤ 4094) :
    s.withFetchWord 16 w = s.setMem (s.mem.writeBytes s.pc.toNat (tableBytes 16 w)) := by
  have hb : inBounds s.pc.toNat (tableBytes 16 w).length = true := (inBounds_eq_true _ _).2 (by
    have : (tableBytes 16 w).length = 2 := rfl
    omega)
  rw [State.withFetchWord, State.placeBytes, if_pos hb]

/-! ## The host's transactions -/

theorem State.unlessFaulted_of_ne {s : State} (h : s.run ≠ .faulted) (r : Result) : s.unlessFaulted r = r := by
  unfold State.unlessFaulted
  split <;> simp_all

theorem State.unlessFaulted_of_eq {s : State} (h : s.run = .faulted) (r : Result) :
    s.unlessFaulted r = .refused (.coreFaulted s.fault) := by
  simp only [State.unlessFaulted, h]

theorem toNat_countDown (b : Byte) : (countDown b).toNat = if b.toNat > 0 then b.toNat - 1 else 0 := by
  revert b
  decide

theorem State.completeWait_waiting {s : State} (h : s.run = .waitingForKey) (k : Fin 16) :
    s.completeWait k = (s.writeV s.waitX (BitVec.ofNat 8 k.val)).setRun .running := by
  simp only [State.completeWait, h]

theorem State.completeWait_running {s : State} (h : s.run = .running) (k : Fin 16) : s.completeWait k = s := by
  simp only [State.completeWait, h]

theorem resetAllowed_eq_true (entry length : Nat) :
    resetAllowed entry length = true ↔ 0x050 ≤ entry ∧ entry ≤ 0xFFF ∧ entry + length ≤ 4096 := by
  simp [resetAllowed, memSize, and_assoc]

/-- The font bytes of memory, where unlisted, are the table of `Config`. -/
theorem Memory.unlisted_font (j : Nat) (h : j < 80) : Memory.unlisted j = Config.font[j] := by
  rw [Memory.unlisted, dif_pos h]

/-- A Reset with the default font and an empty image lists nothing. -/
theorem resetMemory_default (entry : Nat) : resetMemory entry Config.font [] = [] := by
  have hf : Memory.writeBytes [] 0 Config.font.toList = [] := by
    apply Memory.writeBytes_unlisted
    intro j hj
    have h80 : j < 80 := by rw [Vector.length_toList] at hj; exact hj
    rw [Nat.zero_add, Memory.unlisted_font j h80, Vector.getElem_toList]
  rw [resetMemory, hf, Memory.writeBytes]

end Sys2Proof.Machine
end

