-- ==== Sys2Proof/Tests/Slice0.lean ====
section
/-! SUPPORT. Tests against 95_test_vectors.md, whose line each cites, and a witness for the hypotheses of every statement. -/

namespace Sys2Proof.Tests

open Sys2Proof Sys2Proof.Machine

/-! ## Small states and what is looked at -/

/-- A state with a word placed where the next Step fetches. -/
def on (s : State) (w : Nat) : State := s.withFetchWord 16 w

/-- One Step with a word placed. -/
def run1 (s : State) (w : Nat) : Result := step (on s w)

/-- What a transaction's next state shows, if it answers one. -/
def look {α : Type} (r : Result) (f : State → α) : Option α :=
  match r with
  | .next t => some (f t)
  | .fault _ => none
  | .refused _ => none

/-- The run state and the fault record. -/
def faultOf (r : Result) : Option (RunState × Option Fault) := look r fun t => (t.run, t.fault)

/-- Reset with one register set. -/
def v1 (x : Nibble) (a : Byte) : State := State.reset.writeV x a

/-- Reset with two registers set, the second one last. -/
def v2 (x : Nibble) (a : Byte) (y : Nibble) (b : Byte) : State := (v1 x a).writeV y b

/-- A register, `VF` and `pc`, as numbers. -/
def regs (x : Nibble) (r : Result) : Option (Nat × Nat × Nat) :=
  look r fun t => ((t.readV x).toNat, (t.readV 0xF).toNat, t.pc.toNat)

/-- The program counter. -/
def pcOf (r : Result) : Option Nat := look r fun t => t.pc.toNat

/-- Reset with the index register set. -/
def idx (a : Word16) : State := State.reset.setIndex a

/-- Store bytes. -/
def put (s : State) (a : Nat) (bs : List Byte) : State := s.setMem (s.mem.writeBytes a bs)

/-- Reset at a call depth. -/
def deep (d : Fin 17) : State := { State.reset with sp := d }

/-- A waiting core: `0xF10A` executed at `0x200` (KT10). -/
def waiting : State := (State.reset.enterWait 1).advance

/-- A faulted core. -/
def faulted : State := { State.reset with run := .faulted, fault := some (.unknownOpcode 0x0000 0x0200) }

/-- A display with the given pixels set. -/
def px (ps : List Pixel) : Display := ps.foldl Display.flip Display.blank

/-! ## Well-formedness: a legal word of each class, and an ill-formed word for each way to be one (EN5 to EN14) -/

theorem test_legal_words :
    (([0x00E0, 0x00EE, 0x1ABC, 0x2101, 0x3A42, 0x4A42, 0x5120, 0x6AFF, 0x70FF] ++
      [0x8010, 0x8011, 0x8012, 0x8013, 0x8014, 0x8015, 0x82A6, 0x8017, 0x820E] ++
      [0x9120, 0xAFFF, 0xB300, 0xC30F, 0xD122, 0xE19E, 0xE1A1, 0xF207, 0xF10A, 0xF115, 0xF318] ++
      [0xF21E, 0xF029, 0xF533, 0xF155, 0xF265] : List Word16).map legalWord) = List.replicate 34 true := by decide

theorem test_ill_formed_words_refused :
    (([0x0000, 0x01E0, 0x0123, 0x5121, 0x912F, 0x8018, 0x801F, 0xE19F, 0xF000, 0xF175] : List Word16).map legalWord) =
      List.replicate 10 false := by decide

theorem test_ill_formed_words_named :
    decodeWord 0x0000 = .error (.unknownOpcode 0x0000) ∧ decodeWord 0x01E0 = .error (.unknownOpcode 0x01E0) ∧
    decodeWord 0x5121 = .error (.unknownOpcode 0x5121) ∧ decodeWord 0x912F = .error (.unknownOpcode 0x912F) ∧
    decodeWord 0x8018 = .error (.unknownOpcode 0x8018) ∧ decodeWord 0xE19F = .error (.unknownOpcode 0xE19F) ∧
    decodeWord 0xF175 = .error (.unknownOpcode 0xF175) := by decide

theorem test_ill_formed_classes :
    IllegalByClass 0x0123 ∧ IllegalByClass 0x5121 ∧ IllegalByClass 0x8018 ∧ IllegalByClass 0x912F ∧
    IllegalByClass 0xE19F ∧ IllegalByClass 0xF175 ∧ ¬ IllegalByClass 0x5120 := by
  refine ⟨?_, ?_, ?_, ?_, ?_, ?_, ?_⟩ <;> unfold IllegalByClass <;> decide

/-! ## Decoding: a word of every constructor, from 95_test_vectors.md, bit by bit as 30_encoding.md gives it -/

theorem test_decode_class0_to_2 :
    decodeWord 0b0000000011100000 = .ok .cls ∧ decodeWord 0b0000000011101110 = .ok .ret ∧
    decodeWord 0b0001101010111100 = .ok (.jp 0xABC) ∧ decodeWord 0b0010000100000001 = .ok (.call 0x101) := by decide

theorem test_decode_class3_to_7 :
    decodeWord 0b0011101001000010 = .ok (.seImm 0xA 0x42) ∧ decodeWord 0b0100101001000010 = .ok (.sneImm 0xA 0x42) ∧
    decodeWord 0b0101000100100000 = .ok (.seReg 1 2) ∧ decodeWord 0b0110101011111111 = .ok (.ldImm 0xA 0xFF) ∧
    decodeWord 0b0111000000000010 = .ok (.addImm 0 2) := by decide

theorem test_decode_class8 :
    decodeWord 0b1000000000010000 = .ok (.ldReg 0 1) ∧ decodeWord 0b1000000000010001 = .ok (.orReg 0 1) ∧
    decodeWord 0b1000000000010010 = .ok (.andReg 0 1) ∧ decodeWord 0b1000000000010011 = .ok (.xorReg 0 1) ∧
    decodeWord 0b1000111111100100 = .ok (.addReg 0xF 0xE) ∧ decodeWord 0b1000111100000101 = .ok (.subReg 0xF 0) ∧
    decodeWord 0b1000001010100110 = .ok (.shr 2 0xA) ∧ decodeWord 0b1000000000010111 = .ok (.subn 0 1) ∧
    decodeWord 0b1000001000001110 = .ok (.shl 2 0) := by decide

theorem test_decode_class9_to_D :
    decodeWord 0b1001000100100000 = .ok (.sneReg 1 2) ∧ decodeWord 0b1010111111111111 = .ok (.ldIndex 0xFFF) ∧
    decodeWord 0b1011001100000000 = .ok (.jpV0 0x300) ∧ decodeWord 0b1100001100001111 = .ok (.rnd 3 0x0F) ∧
    decodeWord 0b1101111100000001 = .ok (.drw 0xF 0 1) := by decide

theorem test_decode_classE_F :
    decodeWord 0b1110000110011110 = .ok (.skp 1) ∧ decodeWord 0b1110000110100001 = .ok (.sknp 1) ∧
    decodeWord 0b1111001000000111 = .ok (.ldFromDelay 2) ∧ decodeWord 0b1111010100001010 = .ok (.waitKey 5) ∧
    decodeWord 0b1111000100010101 = .ok (.setDelay 1) ∧ decodeWord 0b1111001100011000 = .ok (.setSound 3) ∧
    decodeWord 0b1111001000011110 = .ok (.addIndex 2) ∧ decodeWord 0b1111000000101001 = .ok (.ldGlyph 0) ∧
    decodeWord 0b1111010100110011 = .ok (.storeBcd 5) ∧ decodeWord 0b1111000101010101 = .ok (.storeRegs 1) ∧
    decodeWord 0b1111001001100101 = .ok (.loadRegs 2) := by decide

/-- The table's numbering of an instruction's bits, and bytes high first. -/
theorem test_decode_table_word :
    decodeTableWord 16 0xD7A5 = some (.drw 7 0xA 5) ∧ decodeTableWord 16 0x5121 = none ∧
    decodeBytes [0xA2, 0xF0, 0x11] = .ok (.ldIndex 0x2F0, [0x11]) ∧ decodeBytes [0xA2] = .error .truncated ∧
    encodeBytes (.ldIndex 0x2F0) = [0xA2, 0xF0] := by decide

/-- Part 2.1, field extraction. -/
theorem test_fields :
    fieldClass 0xD7A5 = 0xD ∧ fieldX 0xD7A5 = 7 ∧ fieldY 0xD7A5 = 0xA ∧ fieldN 0xD7A5 = 5 ∧ fieldNN 0xD7A5 = 0xA5 ∧
    fieldNNN 0xD7A5 = 0x7A5 ∧ opcodeOfBytes 0xA2 0xF0 = 0xA2F0 := by decide

/-! ## Step -/

/-- EN1 and EN15: the last address a fetch may start at, and an odd one. -/
theorem test_fetch_edge_and_odd :
    look (run1 (State.reset.setPc 0xFFE) 0x6A01) (fun t => (t.readV 0xA, t.pc)) = some (0x01, 0x1000) ∧
    look (run1 (State.reset.setPc 0x201) 0x6B22) (fun t => (t.readV 0xB, t.pc)) = some (0x22, 0x203) := by decide

/-- EN2 to EN4. -/
theorem test_fetch_out_of_bounds :
    faultOf (step (State.reset.setPc 0xFFF)) = some (.faulted, some (.outOfBounds none 0x0FFF)) ∧
    faultOf (step (State.reset.setPc 0x1000)) = some (.faulted, some (.outOfBounds none 0x1000)) ∧
    faultOf (step (State.reset.setPc 0x10FE)) = some (.faulted, some (.outOfBounds none 0x10FE)) := by decide

/-- EN5, EN8 and EN12. -/
theorem test_unknown_opcode :
    faultOf (step State.reset) = some (.faulted, some (.unknownOpcode 0x0000 0x0200)) ∧
    faultOf (run1 State.reset 0x5121) = some (.faulted, some (.unknownOpcode 0x5121 0x0200)) ∧
    faultOf (run1 State.reset 0xE19F) = some (.faulted, some (.unknownOpcode 0xE19F 0x0200)) := by decide

/-- EN16 and EN17. -/
theorem test_step_waiting_and_faulted :
    step waiting = .next waiting ∧ executedOpcode waiting = none ∧
    step faulted = .refused (.coreFaulted (some (.unknownOpcode 0x0000 0x0200))) := ⟨rfl, rfl, rfl⟩

/-! ## Control flow -/

/-- CF8. -/
theorem test_ret :
    look (run1 { (deep 1).setPc 0x212 with stack := (Vector.replicate 16 0).set 0 0x0206 } 0x00EE)
      (fun t => (t.sp.val, t.pc)) = some (0, 0x206) := by decide

/-- CF9. -/
theorem test_ret_underflow :
    faultOf (run1 State.reset 0x00EE) = some (.faulted, some (.stackUnderflow 0x00EE 0x0200)) := by decide

/-- CF1, CF3. -/
theorem test_jp : pcOf (run1 State.reset 0x1ABC) = some 0xABC ∧ pcOf (run1 State.reset 0x1FFF) = some 0xFFF := by decide

/-- CF5, from an odd address; CF6, the last free slot. -/
theorem test_call :
    look (run1 (State.reset.setPc 0x301) 0x2ABC) (fun t => (t.stack[0], t.sp.val, t.pc)) = some (0x0303, 1, 0xABC) ∧
    look (run1 (deep 15) 0x2300) (fun t => (t.stack[15], t.sp.val, t.pc)) = some (0x0202, 16, 0x300) := by decide

/-- CF7. -/
theorem test_call_overflow :
    faultOf (run1 (deep 16) 0x2300) = some (.faulted, some (.stackOverflow 0x2300 0x0200)) := by decide

/-- CF10, CF11, CF12. -/
theorem test_jpV0 :
    pcOf (run1 (v1 0 0x04) 0xB300) = some 0x304 ∧ pcOf (run1 (v1 0 0xFF) 0xBFFF) = some 0x10FE ∧
    pcOf (run1 (v1 3 0x55) 0xB300) = some 0x300 := by decide

/-- CF13, CF14, CF24. -/
theorem test_seImm :
    pcOf (run1 (v1 0xA 0x42) 0x3A42) = some 0x204 ∧ pcOf (run1 (v1 0xA 0x43) 0x3A42) = some 0x202 ∧
    pcOf (run1 (v1 0xF 0x01) 0x3F01) = some 0x204 := by decide

/-- CF15, CF16. -/
theorem test_sneImm :
    pcOf (run1 (v1 0xA 0x43) 0x4A42) = some 0x204 ∧ pcOf (run1 (v1 0xA 0x42) 0x4A42) = some 0x202 := by decide

/-- CF17, CF18. -/
theorem test_seReg :
    pcOf (run1 (v2 1 0x33 2 0x33) 0x5120) = some 0x204 ∧ pcOf (run1 (v2 1 0x33 2 0x34) 0x5120) = some 0x202 := by decide

/-- CF20, CF21. -/
theorem test_sneReg :
    pcOf (run1 (v2 1 0x01 2 0x02) 0x9120) = some 0x204 ∧ pcOf (run1 (v2 1 0x02 2 0x02) 0x9120) = some 0x202 := by decide

/-! ## Load, arithmetic, logic, shift, random -/

/-- AL1. -/
theorem test_ldImm : regs 0xA (run1 State.reset 0x6AFF) = some (0xFF, 0, 0x202) := by decide

/-- AL4: the wrap sets no flag. -/
theorem test_addImm : regs 0 (run1 (v2 0 0xFF 0xF 0x55) 0x7002) = some (0x01, 0x55, 0x202) := by decide

/-- AL5. -/
theorem test_ldReg : regs 0 (run1 (v1 1 0x2A) 0x8010) = some (0x2A, 0, 0x202) := by decide

/-- AL6. -/
theorem test_orReg : regs 0 (run1 (v2 0 0xF0 1 0x0F) 0x8011) = some (0xFF, 0, 0x202) := by decide

/-- AL7. -/
theorem test_andReg : regs 0 (run1 (v2 0 0xF0 1 0x3C) 0x8012) = some (0x30, 0, 0x202) := by decide

/-- AL8, AL9. -/
theorem test_xorReg :
    regs 0 (run1 (v2 0 0xFF 1 0x0F) 0x8013) = some (0xF0, 0, 0x202) ∧
    regs 0 (run1 (v1 0 0x5A) 0x8003) = some (0x00, 0, 0x202) := by decide

/-- S4, AL12, AL19. -/
theorem test_addReg :
    regs 3 (run1 (v2 3 0xF0 4 0xF0) 0x8344) = some (0xE0, 1, 0x202) ∧
    regs 0 (run1 (v2 0 0xFF 1 0xFF) 0x8014) = some (0xFE, 1, 0x202) ∧
    regs 0 (run1 (v1 0 0x81) 0x8004) = some (0x02, 1, 0x202) := by decide

/-- AL14, AL15, AL16: `VF` as destination and as source. -/
theorem test_addReg_flag :
    regs 0xE (run1 (v2 0xF 0x10 0xE 0xF5) 0x8FE4) = some (0xF5, 1, 0x202) ∧
    regs 0xE (run1 (v2 0xF 0x10 0xE 0x05) 0x8FE4) = some (0x05, 0, 0x202) ∧
    regs 0xE (run1 (v2 0xE 0x01 0xF 0xFF) 0x8EF4) = some (0x00, 1, 0x202) := by decide

/-- AL21, AL22. -/
theorem test_subReg :
    regs 0 (run1 (v2 0 0x05 1 0x07) 0x8015) = some (0xFE, 0, 0x202) ∧
    regs 0 (run1 (v2 0 0x09 1 0x09) 0x8015) = some (0x00, 1, 0x202) := by decide

/-- AL25, AL26. -/
theorem test_subReg_flag :
    regs 0 (run1 (v2 0xF 0x03 0 0x05) 0x8F05) = some (0x05, 0, 0x202) ∧
    regs 0 (run1 (v2 0 0x05 0xF 0x07) 0x80F5) = some (0xFE, 0, 0x202) := by decide

/-- AL29, AL33: `y` is ignored; the flag wins. -/
theorem test_shr :
    regs 2 (run1 (v2 2 0x05 0xA 0xFF) 0x82A6) = some (0x02, 1, 0x202) ∧
    regs 0xF (run1 (v1 0xF 0x02) 0x8FF6) = some (0, 0, 0x202) := by decide

/-- AL34, AL35, AL38. -/
theorem test_subn :
    regs 0 (run1 (v2 0 0x05 1 0x07) 0x8017) = some (0x02, 1, 0x202) ∧
    regs 0 (run1 (v2 0 0x07 1 0x05) 0x8017) = some (0xFE, 0, 0x202) ∧
    regs 0xF (run1 (v2 0xF 0x05 0 0x03) 0x8F07) = some (0, 0, 0x202) := by decide

/-- AL39, AL41, AL43. -/
theorem test_shl :
    regs 2 (run1 (v1 2 0x81) 0x820E) = some (0x02, 1, 0x202) ∧
    regs 2 (run1 (v2 2 0x7F 0xF 1) 0x820E) = some (0xFE, 0, 0x202) ∧
    regs 0xF (run1 (v1 0xF 0x7F) 0x8FFE) = some (0, 0, 0x202) := by decide

/-- AL47: for every draw the bits outside the mask are 0. -/
theorem test_rnd (b : Byte) (h : Config.draw 0 = b) :
    look (execRnd 3 0xF0 State.reset) (fun t => (t.readV 3, t.pc)) = some (b &&& 0xF0, 0x202) := by
  subst h
  rfl

/-! ## Index register and memory -/

/-- IM1. -/
theorem test_ldIndex : look (run1 State.reset 0xAFFF) (fun t => (t.i, t.pc)) = some (0x0FFF, 0x202) := by decide

/-- IM3, IM4. -/
theorem test_addIndex :
    look (run1 ((v2 2 0x01 0xF 0x07).setIndex 0x0FFF) 0xF21E) (fun t => (t.i, t.readV 0xF)) = some (0x1000, 0x07) ∧
    look (run1 ((v1 2 0x02).setIndex 0xFFFF) 0xF21E) (fun t => t.i) = some 0x0001 := by decide

/-- IM5, IM6. -/
theorem test_ldGlyph :
    look (run1 (v1 0 0x0A) 0xF029) (fun t => t.i) = some 0x0032 ∧
    look (run1 (v1 0 0xFF) 0xF029) (fun t => t.i) = some 0x04FB := by decide

/-- S5, over the font bytes, and IM8, the last legal `I`. -/
theorem test_storeBcd :
    look (run1 (v1 0 123) 0xF033) (fun t => (t.mem.readBytes 0 3, t.i)) = some ([1, 2, 3], 0) ∧
    look (run1 ((v1 0 0x6D).setIndex 0x0FFD) 0xF033) (fun t => t.mem.readBytes 0xFFD 3) = some [1, 0, 9] := by decide

/-- IM9. -/
theorem test_storeBcd_fault :
    faultOf (run1 ((v1 0 0x6D).setIndex 0x0FFE) 0xF033) =
      some (.faulted, some (.outOfBounds (some 0xF033) 0x0200)) := by decide

/-- IM11, IM14. -/
theorem test_storeRegs :
    look (run1 (((v2 0 0x12 1 0x0A).writeV 2 0x99).setIndex 0x0208) 0xF155)
      (fun t => (t.mem.readBytes 0x208 3, t.i)) = some ([0x12, 0x0A, 0x00], 0x0208) ∧
    look (run1 ((v1 0 0x07).setIndex 0x0FFF) 0xF055) (fun t => t.mem.read 0xFFF) = some 0x07 := by decide

/-- IM13, IM15. -/
theorem test_storeRegs_fault :
    faultOf (run1 (idx 0x0FF1) 0xFF55) = some (.faulted, some (.outOfBounds (some 0xFF55) 0x0200)) ∧
    faultOf (run1 (idx 0x1000) 0xF055) = some (.faulted, some (.outOfBounds (some 0xF055) 0x0200)) := by decide

/-- IM16, and IM17 on its last registers. -/
theorem test_loadRegs :
    look (run1 (put (idx 0x300) 0x300 [2, 3, 4, 5]) 0xF265)
      (fun t => (t.readV 0, t.readV 1, t.readV 2, t.readV 3, t.i)) = some (2, 3, 4, 0, 0x300) ∧
    look (run1 State.reset 0xFF65) (fun t => (t.readV 0, t.readV 5, t.readV 0xD, t.readV 0xF)) =
      some (0xF0, 0x20, 0x80, 0xF0) := by decide

/-- IM18. -/
theorem test_loadRegs_fault :
    faultOf (run1 (idx 0x0FFF) 0xF165) = some (.faulted, some (.outOfBounds (some 0xF165) 0x0200)) := by decide

/-! ## Display -/

/-- S1. -/
theorem test_cls :
    look (run1 (State.reset.setDisp (px [⟨0, 0⟩])) 0x00E0) (fun t => (Display.pixel t.disp ⟨0, 0⟩, t.dirty, t.readV 0xF)) =
      some (false, true, 0) := by decide

/-- DS4, only `(3, 0)` goes from set to unset; DS7, each pixel wraps on its own. -/
theorem test_drw :
    look (run1 (State.reset.setDisp (px [⟨3, 0⟩, ⟨10, 10⟩])) 0xD001)
      (fun t => (t.disp[0].toNat, t.disp[10].toNat, t.readV 0xF, t.dirty)) =
      some (2 ^ 0 + 2 ^ 1 + 2 ^ 2, 2 ^ 10, 1, true) ∧
    look (run1 (put ((v2 1 62 2 31).setIndex 0x300) 0x300 [0xFF, 0x81]) 0xD122)
      (fun t => (t.disp[31].toNat, t.disp[0].toNat, t.readV 0xF, t.dirty)) =
      some (2 ^ 62 + 2 ^ 63 + 0x3F, 2 ^ 62 + 2 ^ 5, 0, true) := by decide

/-- DS5, DS6, DS10, DS11: no rows, an all-zero sprite, a row out of bounds, the old `VF` as a coordinate. -/
theorem test_drw_corners :
    look (run1 ((v1 0xF 1).setIndex 0x1000) 0xD120) (fun t => (t.readV 0xF, t.dirty, t.run)) = some (0, false, .running) ∧
    look (run1 ((v1 0xF 1).setIndex 0x300) 0xD011) (fun t => (t.readV 0xF, t.dirty)) = some (0, false) ∧
    faultOf (run1 (idx 0x0FFF) 0xD012) = some (.faulted, some (.outOfBounds (some 0xD012) 0x0200)) ∧
    look (run1 (put ((v2 0xF 3 0 2).setIndex 0x300) 0x300 [0x80]) 0xDF01) (fun t => (t.disp[2].toNat, t.readV 0xF)) =
      some (2 ^ 3, 0) := by decide

/-! ## Keypad, timers and the host's transactions -/

/-- KT1, KT2. -/
theorem test_skp :
    pcOf (run1 (((v1 1 7).writeKey 7 true).setPc 0x202) 0xE19E) = some 0x206 ∧
    pcOf (run1 ((v1 1 7).setPc 0x202) 0xE19E) = some 0x204 := by decide

/-- KT5. -/
theorem test_skp_fault :
    faultOf (run1 (v1 1 0x10) 0xE19E) = some (.faulted, some (.outOfBounds (some 0xE19E) 0x0200)) := by decide

/-- KT3, KT4. -/
theorem test_sknp :
    pcOf (run1 ((v1 1 7).setPc 0x202) 0xE1A1) = some 0x206 ∧
    pcOf (run1 (((v1 1 7).writeKey 7 true).setPc 0x202) 0xE1A1) = some 0x204 := by decide

/-- KT6. -/
theorem test_sknp_fault :
    faultOf (run1 (v1 1 0xFF) 0xE1A1) = some (.faulted, some (.outOfBounds (some 0xE1A1) 0x0200)) := by decide

/-- KT7. -/
theorem test_ldFromDelay :
    look (run1 (State.reset.setDt 5) 0xF207) (fun t => (t.readV 2, t.dt)) = some (5, 5) := by decide

/-- KT8. -/
theorem test_setDelay : look (run1 (v1 1 7) 0xF115) (fun t => (t.dt, t.st)) = some (7, 0) := by decide

/-- KT9. -/
theorem test_setSound : look (run1 (v1 3 0x1E) 0xF318) (fun t => (t.dt, t.st)) = some (0, 30) := by decide

/-- KT10, KT15: a held key does not satisfy the wait. -/
theorem test_waitKey :
    look (run1 State.reset 0xF10A) (fun t => (t.run, t.waitX, t.pc)) = some (.waitingForKey, 1, 0x202) ∧
    look (run1 (State.reset.writeKey 2 true) 0xF50A) (fun t => (t.run, t.readV 5)) = some (.waitingForKey, 0) := by decide

/-- KT13, KT14, KT12. -/
theorem test_keys :
    look (keyPress 0xF waiting) (fun t => (t.readKey 15, t.readV 1, t.run, t.pc)) = some (true, 0x0F, .running, 0x202) ∧
    look (keyPress 4 (v1 1 0x33)) (fun t => (t.readKey 4, t.readV 1)) = some (true, 0x33) ∧
    look (keyRelease 3 waiting) (fun t => (t.readKey 3, t.run)) = some (false, .waitingForKey) := by decide

/-- KT17 at its floor, KT18, KT19. -/
theorem test_ticks :
    look (tickDelay State.reset) (fun t => t.dt) = some 0 ∧
    look (tickSound ((State.reset.setSt 1).setDt 9)) (fun t => (t.st, t.dt)) = some (0, 9) ∧
    look (tickDelay (waiting.setDt 4)) (fun t => (t.dt, t.run)) = some (3, .waitingForKey) := by decide

/-- KT20, KT21. -/
theorem test_clear_dirty_and_refusals :
    look (clearDirty (State.reset.setDirty true)) (fun t => t.dirty) = some false ∧
    tickDelay faulted = .refused (.coreFaulted (some (.unknownOpcode 0x0000 0x0200))) ∧
    keyPress 3 faulted = .refused (.coreFaulted (some (.unknownOpcode 0x0000 0x0200))) := ⟨rfl, rfl, rfl⟩

/-- RS5, for another `ENTRY`, and RS4. -/
theorem test_reset :
    look (State.resetWith 0x600 (Vector.replicate 80 0xAA) [0x12, 0x00] 7)
      (fun t => (t.mem.readBytes 0x600 2, t.mem.read 0, t.mem.read 79, t.pc, t.free)) =
      some ([0x12, 0x00], 0xAA, 0xAA, 0x600, 7) ∧
    resetAllowed 0x200 3584 = true ∧ resetAllowed 0x200 3585 = false := by decide

/-! ## Witnesses: for every statement with hypotheses, states and operands that meet them, at the values where its clauses
meet -/

theorem witness_EncodeOfDecode : decodeWord 0x8344 = .ok (.addReg 3 4) := by decide

theorem witness_OpcodeMapSelectsDecoding : (Instr.addReg 0 0).row ∈ opcodeMap ∧ (Instr.addReg 0 0).row.selects 0x8344 = true := by
  decide

theorem witness_StepRunsDecodedInstruction :
    ∃ (s : State) (i : Instr), s.run = .running ∧ s.pc.toNat ≤ 4094 ∧
      decodeWord (opcodeOfBytes (s.mem.read s.pc.toNat) (s.mem.read (s.pc.toNat + 1))) = .ok i :=
  ⟨on (State.reset.setPc 0xFFE) 0x6A01, .ldImm 0xA 0x01, by decide⟩

theorem witness_StepRunsPlacedInstruction :
    State.reset.run = .running ∧ State.reset.pc.toNat ≤ 4094 ∧ (State.reset.setPc 0xFFE).pc.toNat ≤ 4094 := by decide

theorem witness_FetchTwoBytesInBounds :
    (State.reset.setPc 0xFFE).pc.toNat ≤ 4094 ∧ (State.reset.setPc 0xFFF).pc.toNat > 4094 ∧
    (State.reset.setPc 0xFFF).run = .running := by decide

theorem witness_UnknownOpcodeExactlyOnIllegalWord :
    (on State.reset 0x5121).run = .running ∧ (on State.reset 0x5121).fetch = some 0x5121 ∧ legalWord 0x5121 = false ∧
    (on State.reset 0x5120).fetch = some 0x5120 ∧ legalWord 0x5120 = true := by decide

/-- Both sides of each bound of `OutOfBounds`. -/
theorem witness_OutOfBoundsExactCases :
    (ReachesOutOfBounds (idx 0x0FFF) (.drw 0 0 2) ∧ ¬ ReachesOutOfBounds (idx 0x0FFF) (.drw 0 0 1) ∧
      ¬ ReachesOutOfBounds (idx 0x1000) (.drw 0 0 0)) ∧
    (ReachesOutOfBounds (idx 0x0FFE) (.storeBcd 0) ∧ ¬ ReachesOutOfBounds (idx 0x0FFD) (.storeBcd 0)) ∧
    (ReachesOutOfBounds (idx 0x0FF1) (.storeRegs 0xF) ∧ ¬ ReachesOutOfBounds (idx 0x0FF0) (.storeRegs 0xF)) ∧
    (ReachesOutOfBounds (idx 0x0FF1) (.loadRegs 0xF) ∧ ¬ ReachesOutOfBounds (idx 0x0FF0) (.loadRegs 0xF)) ∧
    (ReachesOutOfBounds (v1 1 16) (.skp 1) ∧ ¬ ReachesOutOfBounds (v1 1 15) (.skp 1)) ∧
    (ReachesOutOfBounds (v1 1 16) (.sknp 1) ∧ ¬ ReachesOutOfBounds (v1 1 15) (.sknp 1)) := by
  refine ⟨⟨?_, ?_, ?_⟩, ⟨?_, ?_⟩, ⟨?_, ?_⟩, ⟨?_, ?_⟩, ⟨?_, ?_⟩, ?_, ?_⟩ <;> unfold ReachesOutOfBounds <;> decide

theorem witness_StackFaultsExactCases :
    ((on State.reset 0x00EE).run = .running ∧ (on State.reset 0x00EE).fetch = some 0x00EE ∧
      (on State.reset 0x00EE).sp.val = 0) ∧
    ((on (deep 16) 0x2300).run = .running ∧ (on (deep 16) 0x2300).fetch = some 0x2300 ∧
      (on (deep 16) 0x2300).sp.val = 16) := by decide

theorem witness_StepGatedByRunState : waiting.run = .waitingForKey ∧ faulted.run = .faulted := ⟨rfl, rfl⟩

theorem witness_RunningStepAnswersNext : State.reset.run = .running := rfl

/-- For `ProgramCounterLaw`, `OnlyListedInstructionsWrite`, `FlagWrittenBySixInstructions` and `SoundTimerAndKeysUnread`:
a completed instruction, with a component it does not write. -/
theorem witness_completed :
    ∃ t, exec (.ldImm 0 5) State.reset = .next t ∧ t.run ≠ .faulted ∧ Component.index.writtenBy (.ldImm 0 5) = false ∧
      (Instr.ldImm 0 5).writesFlag = false ∧ (Instr.ldImm 0 5).names 0xF = false ∧ (∀ x, Instr.ldImm 0 5 ≠ .setSound x) ∧
      (∀ x, Instr.ldImm 0 5 ≠ .skp x) ∧ (∀ x, Instr.ldImm 0 5 ≠ .sknp x) :=
  ⟨_, rfl, by decide, rfl, rfl, by decide, by simp, by simp, by simp⟩

/-- A completed return and a completed key skip, for the arms of `nextPc` that a fault could empty. -/
theorem witness_ProgramCounterLaw :
    (∃ t, exec .ret (deep 16) = .next t ∧ t.run ≠ .faulted) ∧
    (∃ t, exec (.skp 1) (v1 1 15) = .next t ∧ t.run ≠ .faulted) := ⟨⟨_, rfl, by decide⟩, _, rfl, by decide⟩

theorem witness_FlagWrittenBySixInstructions :
    ∃ t, exec (.addReg 0xF 0xE) (v1 0xE 1) = .next t ∧ t.run ≠ .faulted ∧ (Instr.addReg 0xF 0xE).writesFlag = true :=
  ⟨_, rfl, by decide, rfl⟩

theorem witness_StepReturnsExecutedOpcode :
    waiting.run ≠ .running ∧ faulted.run ≠ .running ∧
    (∃ t, step (on State.reset 0x6005) = .next t ∧ t.run ≠ .faulted) ∧
    (∃ t, step State.reset = .next t ∧ t.run = .faulted) := by
  refine ⟨by decide, by decide, ⟨_, rfl, ?_⟩, _, rfl, rfl⟩
  decide

theorem witness_ReturnPopsOrUnderflows : 0 < (deep 1).sp.val ∧ 0 < (deep 16).sp.val ∧ (deep 0).sp.val = 0 := by decide

theorem witness_CallPushesOrOverflows : (deep 0).sp.val < 16 ∧ (deep 15).sp.val < 16 ∧ (deep 16).sp.val = 16 := by decide

/-- S2b: the word `0x2101` at `0x200` and `0x00EE` at `0x101`. -/
theorem witness_CallThenReturnRoundTrip :
    ∃ (nnn : Addr12) (s : State), s.run = .running ∧ s.pc.toNat ≤ 4094 ∧ s.fetch = some (encode (.call nnn)) ∧
      s.sp.val < 16 ∧ nnn.toNat ≤ 4094 ∧ s.mem.read nnn.toNat = 0x00 ∧ s.mem.read (nnn.toNat + 1) = 0xEE :=
  ⟨0x101, put (on State.reset 0x2101) 0x101 [0x00, 0xEE], by decide⟩

theorem witness_EndedRunStays : (on State.reset 0x1200).runEnded := by
  unfold State.runEnded
  decide

/-- For `AddRegistersWithCarry`, `SubtractRegistersNoBorrow` and `ShiftsByOne`: `x` other than `F`, and both values of a
carry and of a no-borrow. -/
theorem witness_flag_results :
    (3 : Nibble) ≠ 0xF ∧ (0xF0 : Byte).toNat + (0xF0 : Byte).toNat > 255 ∧ ¬ (0xF0 : Byte).toNat + (0x0F : Byte).toNat > 255 ∧
    (9 : Byte).toNat ≥ (9 : Byte).toNat ∧ ¬ (8 : Byte).toNat ≥ (9 : Byte).toNat := by decide

theorem witness_StoreDecimalDigits : (idx 0xFFD).i.toNat + 2 ≤ 4095 ∧ (idx 0xFFE).i.toNat + 2 > 4095 := by decide

/-- For `StoreRegisterBlock` and `LoadRegisterBlock`. -/
theorem witness_register_blocks :
    (idx 0xFF0).i.toNat + (0xF : Nibble).toNat ≤ 4095 ∧ (idx 0xFF1).i.toNat + (0xF : Nibble).toNat > 4095 ∧
    (idx 0xFFF).i.toNat + (0 : Nibble).toNat ≤ 4095 ∧ (0 : Nibble).toNat ≤ (0 : Nibble).toNat := by decide

/-- `V0` and `V1` stored over the next instruction. -/
theorem witness_StoreSeenByNextFetch :
    ∃ t, exec (.storeRegs 1) (idx 0x202) = .next t ∧ t.run ≠ .faulted ∧ (idx 0x202).i.toNat + (1 : Nibble).toNat ≤ 4095 ∧
      (0 : Nibble).toNat + 1 = (1 : Nibble).toNat ∧ (1 : Nibble).toNat ≤ (1 : Nibble).toNat ∧
      t.pc.toNat = (idx 0x202).i.toNat + (0 : Nibble).toNat := ⟨_, rfl, by decide, by decide⟩

theorem witness_DrawSpriteXorsAndDetectsCollision :
    ((0 : Nibble).toNat = 0 ∨ (idx 0x1000).i.toNat + (0 : Nibble).toNat - 1 ≤ 4095) ∧
    ((1 : Nibble).toNat = 0 ∨ (idx 0xFFF).i.toNat + (1 : Nibble).toNat - 1 ≤ 4095) ∧
    (1 ≤ (2 : Nibble).toNat ∧ (idx 0xFFF).i.toNat + (2 : Nibble).toNat - 1 > 4095) := by decide

/-- The leftmost bit of glyph 0 covers `(0, 0)`, and no bit of its one row covers `(4, 0)`. -/
theorem witness_SpriteCovers :
    SpriteCovers State.reset 0 0 1 ⟨0, 0⟩ ∧ ¬ SpriteCovers State.reset 0 0 1 ⟨4, 0⟩ := by
  refine ⟨⟨0, 0, by decide, by decide, by decide, by decide, by decide⟩, ?_⟩
  rintro ⟨r, c, hr, hc, hb, hx, -⟩
  have h0 : r = 0 := by simp at hr; omega
  have h4 : c = 4 := by
    have : (State.reset.readV 0).toNat = 0 := by decide
    rw [this] at hx
    simp at hx
    omega
  subst h0 h4
  exact absurd hb (by decide)

/-- S6: glyph 0 drawn twice at `(0, 0)`. -/
theorem witness_DrawingTwiceRestoresDisplay :
    ∃ t t', exec (.drw 0 0 5) State.reset = .next t ∧ t.run ≠ .faulted ∧ exec (.drw 0 0 5) t = .next t' ∧
      t'.run ≠ .faulted ∧ t.disp = t.disp ∧ (t.readV 0).toNat % 64 = (State.reset.readV 0).toNat % 64 ∧
      (t.readV 0).toNat % 32 = (State.reset.readV 0).toNat % 32 ∧
      ∀ r < 5, t.mem.read (t.i.toNat + r) = State.reset.mem.read (State.reset.i.toNat + r) :=
  ⟨_, _, rfl, by decide, rfl, by decide, rfl, by decide, by decide, fun _ _ => rfl⟩

theorem witness_KeySkips : ((v1 1 15).readV 1).toNat < 16 ∧ ((v1 1 16).readV 1).toNat > 15 := by decide

/-- For `TickDelayCountsDown`, `TickSoundCountsDownAndCommutes`, `KeyReleaseClearsFlag` and `ClearDirtyClearsFlag`: running
and waiting, at a timer of 0 and above it. -/
theorem witness_ticks :
    State.reset.run ≠ .faulted ∧ waiting.run ≠ .faulted ∧ State.reset.dt.toNat = 0 ∧ (State.reset.setDt 1).dt.toNat > 0 ∧
    State.reset.st.toNat = 0 ∧ (State.reset.setSt 1).st.toNat > 0 := by decide

theorem witness_KeyPressWhileRunning : State.reset.run = .running ∧ (16 : Nat) > 15 ∧ (15 : Fin 16).val = 15 := by decide

theorem witness_FaultedLeftOnlyByReset :
    faulted.run = .faulted ∧ (∀ image, Transaction.step ≠ .reset image) ∧
    Config.entry + (List.replicate 3584 (0 : Byte)).length ≤ 4096 := by
  refine ⟨rfl, by simp, ?_⟩
  rw [List.length_replicate]
  decide

theorem witness_WaitEndsOnlyByKeyPressOrReset :
    ∃ t, waiting.run = .waitingForKey ∧ transact .tickDelay waiting = .next t ∧
      (∀ k, Transaction.tickDelay ≠ .keyPress k) ∧ (∀ image, Transaction.tickDelay ≠ .reset image) :=
  ⟨_, rfl, rfl, by simp, by simp⟩

/-- A KeyPress that ends a wait, so that a register does change. -/
theorem witness_HostTransactionsLeaveCoreAlone :
    ∃ t, transact (.keyPress 7) waiting = .next t ∧ Transaction.keyPress 7 ≠ .step ∧
      (∀ image, Transaction.keyPress 7 ≠ .reset image) ∧ t.readV 1 ≠ waiting.readV 1 :=
  ⟨_, rfl, by simp, by simp, by decide⟩

/-- Each of the three ways the delay timer changes. -/
theorem witness_DelayTimerChangesOnlySo :
    (∃ t, transact .tickDelay (State.reset.setDt 1) = .next t ∧ t.run ≠ .faulted ∧ t.dt ≠ (State.reset.setDt 1).dt) ∧
    (∃ t, transact .step (on (v1 1 7) 0xF115) = .next t ∧ t.run ≠ .faulted ∧ t.dt ≠ (on (v1 1 7) 0xF115).dt) ∧
    (∃ t, transact (.reset []) (State.reset.setDt 1) = .next t ∧ t.run ≠ .faulted ∧ t.dt ≠ (State.reset.setDt 1).dt) :=
  ⟨⟨_, rfl, by decide, by decide⟩, ⟨_, rfl, by decide, by decide⟩, _, rfl, by decide, by decide⟩

/-- Both sides of the preconditions of Reset, and an address in each region of memory. -/
theorem witness_ResetBuildsState :
    (0x050 ≤ 0x050 ∧ 0x050 ≤ 0xFFF ∧ 0x050 + ([] : List Byte).length ≤ 4096) ∧
    (0x050 ≤ 0xFFF ∧ 0xFFF ≤ 0xFFF ∧ 0xFFF + ([0x12] : List Byte).length ≤ 4096) ∧
    ¬ (0x050 ≤ 0x04F ∧ 0x04F ≤ 0xFFF ∧ 0x04F + ([] : List Byte).length ≤ 4096) ∧
    ¬ (0x050 ≤ 0x1000 ∧ 0x1000 ≤ 0xFFF ∧ 0x1000 + ([] : List Byte).length ≤ 4096) ∧
    ¬ (0x050 ≤ 0xFFF ∧ 0xFFF ≤ 0xFFF ∧ 0xFFF + ([0x12, 0x00] : List Byte).length ≤ 4096) ∧
    (79 < 80 ∧ 80 ≤ 80 ∧ 80 < 4096 ∧ (80 < 0x200 ∨ 0x200 + 2 ≤ 80)) := by
  decide

/-- A state of the invariant from which a Step goes on; the same for `TransactionsKeepInvariant`. -/
theorem witness_StepKeepsInvariant :
    (on State.reset 0x6005).Inv ∧ ∃ t, step (on State.reset 0x6005) = .next t := by
  refine ⟨⟨?_, ?_, fun _ => ⟨?_, fun j hj => ?_⟩⟩, _, rfl⟩
  · unfold State.memoryCanonical; decide
  · unfold State.faultRecorded; decide
  · decide
  · exact absurd hj (Nat.not_lt_zero _)

end Sys2Proof.Tests
end

section
/-! PROOFS. The fields of an opcode fetched as two bytes (30_encoding.md R92). -/

namespace Sys2Proof

/-! ## The wide fields from the narrow ones -/

theorem toNat_fieldNN_eq_fieldY_fieldN (op : Word16) :
    (fieldNN op).toNat = (fieldY op).toNat * 16 + (fieldN op).toNat := by
  rw [toNat_fieldNN, toNat_fieldY, toNat_fieldN]; omega

theorem toNat_fieldNNN_eq_fieldX_fieldNN (op : Word16) :
    (fieldNNN op).toNat = (fieldX op).toNat * 256 + (fieldNN op).toNat := by
  rw [toNat_fieldNNN, toNat_fieldX, toNat_fieldNN]; omega

/-! ## The fields by the two bytes: `nn` is the low byte, the class and `x` are the digits of the high byte, and `y` and `n`
those of the low one -/

section Bytes

variable (hi lo : Byte)

theorem toNat_fieldClass_opcodeOfBytes : (fieldClass (opcodeOfBytes hi lo)).toNat = hi.toNat / 16 := by
  have := lo.isLt
  rw [toNat_fieldClass, toNat_opcodeOfBytes]; omega

theorem toNat_fieldX_opcodeOfBytes : (fieldX (opcodeOfBytes hi lo)).toNat = hi.toNat % 16 := by
  have := lo.isLt
  rw [toNat_fieldX, toNat_opcodeOfBytes]; omega

theorem toNat_fieldY_opcodeOfBytes : (fieldY (opcodeOfBytes hi lo)).toNat = lo.toNat / 16 := by
  have := lo.isLt
  rw [toNat_fieldY, toNat_opcodeOfBytes]; omega

theorem toNat_fieldN_opcodeOfBytes : (fieldN (opcodeOfBytes hi lo)).toNat = lo.toNat % 16 := by
  rw [toNat_fieldN, toNat_opcodeOfBytes]; omega

@[simp] theorem fieldNN_opcodeOfBytes : fieldNN (opcodeOfBytes hi lo) = lo := by
  have := lo.isLt
  apply BitVec.eq_of_toNat_eq; rw [toNat_fieldNN, toNat_opcodeOfBytes]; omega

theorem toNat_fieldNNN_opcodeOfBytes :
    (fieldNNN (opcodeOfBytes hi lo)).toNat = hi.toNat % 16 * 256 + lo.toNat := by
  rw [toNat_fieldNNN_eq_fieldX_fieldNN, toNat_fieldX_opcodeOfBytes, fieldNN_opcodeOfBytes]

end Bytes

/-- Settles O6: each field is a quotient and remainder of the word, and the word is `hi * 256 + lo`. -/
theorem opcodeFields : Obligations.OpcodeFields := by
  intro hi lo op
  exact ⟨toNat_fieldClass op, toNat_fieldX op, toNat_fieldY op, toNat_fieldN op, toNat_fieldNN op, toNat_fieldNNN op,
    toNat_fieldNN_eq_fieldY_fieldN op, toNat_fieldNNN_eq_fieldX_fieldNN op,
    toNat_fieldClass_opcodeOfBytes hi lo, toNat_fieldX_opcodeOfBytes hi lo,
    toNat_fieldY_opcodeOfBytes hi lo, toNat_fieldN_opcodeOfBytes hi lo,
    fieldNN_opcodeOfBytes hi lo, toNat_fieldNNN_opcodeOfBytes hi lo⟩

end Sys2Proof
end

section
/-! PROOFS. The fetch of a Step, and the fault where its two bytes leave memory (40_step_engine.md R122). -/

namespace Sys2Proof

open Machine

/-- R8, R129: what `raise` answers is the fault taken. -/
theorem raises_raise (f : Fault) (s : State) : Raises (raise f s) f := ⟨s.enterFault f, rfl, rfl, rfl⟩

theorem step_fetch_none {s : State} (h : s.run = .running) (hf : s.fetch = none) :
    step s = raise (.outOfBounds none s.pc) s := by
  simp only [step, h, hf]

/-- Settles O10: up to 4094 the fetch is the word of the two bytes, and above it a running Step has no word to decode. -/
theorem fetchTwoBytesInBounds : Obligations.FetchTwoBytesInBounds := by
  intro s
  constructor
  · intro hpc
    exact ⟨_, s.fetch_some hpc, toNat_opcodeOfBytes _ _⟩
  · intro hpc
    have hf : s.fetch = none := s.fetch_none hpc
    refine ⟨hf, fun hrun => ?_⟩
    rw [step_fetch_none hrun hf]
    exact raises_raise _ s

end Sys2Proof
end

section
/-! PROOFS. Frames of the program counter and the call stack, and the target of a skip: what every control flow instruction
is made of (10_state.md R28; 40_step_engine.md R124). -/

namespace Sys2Proof

open Machine

/-! ## Zero extension as numbers (00_scope.md R8) -/

@[simp] theorem toNat_zextAddr (nnn : Addr12) : (zextAddr nnn).toNat = nnn.toNat :=
  BitVec.toNat_setWidth_of_le (by decide)

@[simp] theorem toNat_zextByte (b : Byte) : (zextByte b).toNat = b.toNat :=
  BitVec.toNat_setWidth_of_le (by decide)

/-! ## Frames -/

theorem KeepsAllBut.refl (p : Component → Prop) (s : State) : KeepsAllBut p s s := by
  intro c _
  cases c <;> rfl

/-- No component is the program counter, so setting it keeps every frame. -/
theorem KeepsAllBut.setPc {p : Component → Prop} {s t : State} (h : KeepsAllBut p s t) (a : Word16) :
    KeepsAllBut p s (t.setPc a) := by
  intro c hc
  have hsame : Component.same s t c := h c hc
  cases c <;> exact hsame

/-- A pop changes the depth alone: the popped slot keeps its content (R140). -/
theorem keepsAllBut_of_pop {s t : State} {a : Word16} (h : s.pop = some (a, t)) : KeepsAllBut (only .depth) s t := by
  obtain ⟨-, -, rfl⟩ := (s.pop_eq_some a t).1 h
  intro c hc
  cases c
  case depth => exact absurd rfl hc
  all_goals rfl

/-- A push changes the depth and the slot at the old depth alone. -/
theorem keepsAllBut_of_push {s t : State} {a : Word16} (hsp : s.sp.val < 16) (h : s.push a = some t) :
    KeepsAllBut (either (only .depth) (only (.slot ⟨s.sp.val, hsp⟩))) s t := by
  obtain ⟨-, rfl⟩ := (s.push_eq_some a t).1 h
  intro c hc
  cases c
  case depth => exact absurd (.inl rfl) hc
  case slot j =>
    have hj : s.sp.val ≠ j.val := fun e => hc (.inr (congrArg Component.slot (Fin.ext e.symm)))
    exact Vector.getElem_set_ne hsp j.isLt hj
  all_goals rfl

/-! ## Skips -/

/-- R124: `npc + 2` is four past the instruction. -/
theorem skipIf_pc_eq_skipTarget (s : State) (c : Bool) : (s.skipIf c).pc = skipTarget s c := by
  have hnpc : s.npc + 2 = s.pc + 4 := by rw [s.npc_eq, BitVec.add_assoc]; rfl
  rw [State.skipIf_pc, hnpc, skipTarget, State.npc_eq]

theorem keepsAllBut_skipIf (s : State) (c : Bool) : KeepsAllBut nothing s (s.skipIf c) :=
  (KeepsAllBut.refl nothing s).setPc _

theorem skipTarget_beq (s : State) (a b : Byte) :
    skipTarget s (a == b) = if a = b then s.pc + 4 else s.pc + 2 := by
  simp [skipTarget]

theorem skipTarget_bne (s : State) (a b : Byte) :
    skipTarget s (a != b) = if a = b then s.pc + 2 else s.pc + 4 := by
  simp [skipTarget]

end Sys2Proof
end

section
/-! PROOFS. The control flow instructions (41_control_flow.md R140 to R147). -/

namespace Sys2Proof

open Machine

/-! ## Call and return: the two ways each can go -/

section Stack

variable {s t : State} {a : Word16} (nnn : Addr12)

theorem exec_call_of_push (h : s.push s.npc = some t) : exec (.call nnn) s = .next (t.setPc (zextAddr nnn)) := by
  simp only [exec, execCall, h]

theorem exec_call_of_full (h : s.sp.val = 16) :
    exec (.call nnn) s = raise (.stackOverflow (encode (.call nnn)) s.pc) s := by
  simp only [exec, execCall, (s.push_eq_none s.npc).2 h]

theorem exec_ret_of_pop (h : s.pop = some (a, t)) : exec .ret s = .next (t.setPc a) := by
  simp only [exec, execRet, h]

theorem exec_ret_of_empty (h : s.sp.val = 0) : exec .ret s = raise (.stackUnderflow (encode .ret) s.pc) s := by
  simp only [exec, execRet, s.pop_eq_none.2 h]

end Stack

theorem encode_call_eq_ofNat (nnn : Addr12) : encode (.call nnn) = BitVec.ofNat 16 (0x2000 + nnn.toNat) := by
  have := nnn.isLt
  apply BitVec.eq_of_toNat_eq
  rw [encode, toNat_formatAddr, BitVec.toNat_ofNat, show (0x2 : Nibble).toNat = 2 from rfl]
  omega

/-- Settles O22: below depth 16 the push succeeds and its state, jumped to `nnn`, is the next one; at depth 16 it has no
slot. -/
theorem callPushesOrOverflows : Obligations.CallPushesOrOverflows := by
  intro nnn s
  constructor
  · intro h
    have hpush := (s.push_eq_some s.npc _).2 ⟨h, rfl⟩
    refine ⟨_, exec_call_of_push nnn hpush, ?_, rfl, toNat_zextAddr nnn, (keepsAllBut_of_push h hpush).setPc _⟩
    exact Vector.getElem_set_self h
  · intro h
    rw [exec_call_of_full nnn h, encode_call_eq_ofNat]
    exact raises_raise _ s

/-- Settles O20: above depth 0 the pop succeeds and answers the top slot; at depth 0 there is none. -/
theorem returnPopsOrUnderflows : Obligations.ReturnPopsOrUnderflows := by
  intro s
  constructor
  · intro h
    have hpop := (s.pop_eq_some _ _).2 ⟨h, rfl, rfl⟩
    exact ⟨_, exec_ret_of_pop hpop, rfl, rfl, (keepsAllBut_of_pop hpop).setPc _⟩
  · intro h
    rw [exec_ret_of_empty h]
    exact raises_raise _ s

/-! ## Jumps -/

/-- R143: the sum of `V0` and `nnn` never reaches 65536. -/
theorem toNat_zextByte_add_zextAddr (b : Byte) (nnn : Addr12) :
    (zextByte b + zextAddr nnn).toNat = b.toNat + nnn.toNat := by
  have := b.isLt
  have := nnn.isLt
  rw [BitVec.toNat_add, toNat_zextByte, toNat_zextAddr]
  omega

/-- Settles O21: each jump sets `pc` and nothing else. -/
theorem jumpsWriteTarget : Obligations.JumpsWriteTarget := by
  intro nnn s
  exact ⟨⟨_, rfl, toNat_zextAddr nnn, (KeepsAllBut.refl nothing s).setPc _⟩,
    ⟨_, rfl, toNat_zextByte_add_zextAddr (s.readV 0) nnn, (KeepsAllBut.refl nothing s).setPc _⟩⟩

/-! ## Skips -/

/-- What an instruction that skips on the condition `c` does. -/
theorem skip_completes {i : Instr} {s : State} {c : Bool} (h : exec i s = .next (s.skipIf c)) :
    ∃ t, exec i s = .next t ∧ KeepsAllBut nothing s t ∧ t.pc = skipTarget s c :=
  ⟨_, h, keepsAllBut_skipIf s c, skipIf_pc_eq_skipTarget s c⟩

/-- Settles O23: each of the four is a skip on its comparison. -/
theorem registerSkips : Obligations.RegisterSkips := by
  intro x y nn s
  simp only [← skipTarget_beq, ← skipTarget_bne]
  exact ⟨skip_completes rfl, skip_completes rfl, skip_completes rfl, skip_completes rfl⟩

end Sys2Proof
end

section
/-! PROOFS. The instructions that write one register and no flag: immediate load and add, copy and the three logic
instructions (42_load_arith_logic.md R160 to R165). -/

namespace Sys2Proof

open Machine

/-! ## One register written -/

/-- A register write keeps every frame that already gives the register up. -/
theorem KeepsAllBut.writeV {p : Component → Prop} {s t : State} (h : KeepsAllBut p s t) {x : Nibble} (hx : p (.reg x))
    (b : Byte) : KeepsAllBut p s (t.writeV x b) := by
  intro c hc
  have hsame : Component.same s t c := h c hc
  cases c
  case reg r =>
    have hr : r ≠ x := fun e => hc (e ▸ hx)
    exact (t.readV_writeV x r b).trans ((if_neg hr).trans hsame)
  all_goals exact hsame

/-- What an instruction that writes `b` to `Vx` and advances does. -/
theorem writeV_completes {i : Instr} {s : State} {x : Nibble} {b : Byte}
    (h : exec i s = .next (s.writeV x b).advance) :
    ∃ t, exec i s = .next t ∧ t.readV x = b ∧ t.pc = s.pc + 2 ∧ KeepsAllBut (only (.reg x)) s t := by
  have hread : (s.writeV x b).advance.readV x = b := by simp
  have hframe : KeepsAllBut (only (.reg x)) s (s.writeV x b) :=
    (KeepsAllBut.refl (only (.reg x)) s).writeV rfl b
  exact ⟨_, h, hread, rfl, hframe.setPc _⟩

/-! ## The instructions -/

/-- Settles O26: each writes `Vx` alone, and the sum of two bytes is taken modulo 256. -/
theorem loadAndAddImmediate : Obligations.LoadAndAddImmediate := by
  intro x nn s
  refine ⟨writeV_completes rfl, ?_⟩
  obtain ⟨t, hexec, hread, hpc, hframe⟩ : ∃ t, exec (.addImm x nn) s = .next t ∧ _ := writeV_completes rfl
  exact ⟨t, hexec, by rw [hread, BitVec.toNat_add], hpc, hframe⟩

/-- What an instruction does that writes to `Vx` the bytes of `Vx` and `Vy` combined bit by bit under `f`. -/
theorem bitwise_completes (f : Bool → Bool → Bool) {i : Instr} {x y : Nibble} {s : State} {b : Byte}
    (h : exec i s = .next (s.writeV x b).advance)
    (hb : ∀ j, b.getLsbD j = f ((s.readV x).getLsbD j) ((s.readV y).getLsbD j)) :
    ∃ t, exec i s = .next t ∧ t.pc = s.pc + 2 ∧ KeepsAllBut (only (.reg x)) s t ∧
      ∀ j < 8, (t.readV x).getLsbD j = f ((s.readV x).getLsbD j) ((s.readV y).getLsbD j) := by
  obtain ⟨t, hexec, hread, hpc, hframe⟩ := writeV_completes h
  exact ⟨t, hexec, hpc, hframe, fun j _ => by rw [hread, hb]⟩

/-- Settles O27: each writes `Vx` alone, and the logic operations of bytes act on each bit. -/
theorem copyAndLogic : Obligations.CopyAndLogic := by
  intro x y s
  exact ⟨writeV_completes rfl,
    bitwise_completes (· || ·) rfl fun _ => BitVec.getLsbD_or,
    bitwise_completes (· && ·) rfl fun _ => BitVec.getLsbD_and,
    bitwise_completes (· ^^ ·) rfl fun _ => BitVec.getLsbD_xor⟩

end Sys2Proof
end

section
/-! PROOFS. The index register, and the blocks of memory at `I`: how they are read and written, what each leaves alone, and
the bounds check (43_index_memory.md). -/

namespace Sys2Proof

open Machine

/-! ## The index register written -/

theorem keepsAllBut_setIndex (s : State) (a : Word16) : KeepsAllBut (only .index) s (s.setIndex a) := by
  intro c hc
  cases c
  case index => exact absurd rfl hc
  all_goals rfl

/-- What an instruction that writes the number `n` to `I` and advances does. -/
theorem setIndex_completes {i : Instr} {s : State} {a : Word16} {n : Nat}
    (h : exec i s = .next (s.setIndex a).advance) (ha : a.toNat = n) :
    ∃ t, exec i s = .next t ∧ t.i.toNat = n ∧ t.pc = s.pc + 2 ∧ KeepsAllBut (only .index) s t :=
  ⟨_, h, ha, rfl, (keepsAllBut_setIndex s a).setPc _⟩

/-- R192: a glyph address never reaches 65536. -/
theorem toNat_glyphAddress (b : Byte) : (glyphAddress b).toNat = b.toNat * 5 :=
  Nat.mod_eq_of_lt (by have := b.isLt; omega)

/-- Settles O32: each writes `I` alone, and both values fit in 16 bits. -/
theorem indexLoadedAndPointedAtGlyph : Obligations.IndexLoadedAndPointedAtGlyph := by
  intro x nnn s
  exact ⟨setIndex_completes rfl (toNat_zextAddr nnn), setIndex_completes rfl (toNat_glyphAddress (s.readV x))⟩

/-! ## A block at `I` written, and the registers loaded from one -/

theorem read_writeBlock (s : State) {bs : List Byte} {k : Nat} (hk : k < bs.length) :
    (s.writeBlock bs).mem.read (s.i.toNat + k) = bs[k] := by
  have hin : s.i.toNat ≤ s.i.toNat + k ∧ s.i.toNat + k < s.i.toNat + bs.length := by omega
  rw [State.writeBlock_mem, Memory.read_writeBytes, dif_pos hin]
  simp only [Nat.add_sub_cancel_left]

theorem keepsAllBut_writeBlock (s : State) (bs : List Byte) :
    KeepsAllBut (bytesFrom s.i.toNat bs.length) s (s.writeBlock bs) := by
  intro c hc
  cases c
  case byte a =>
    have hout : ¬ (s.i.toNat ≤ a ∧ a < s.i.toNat + bs.length) := fun ⟨hle, hlt⟩ =>
      hc ⟨a - s.i.toNat, by omega, congrArg Component.byte (by omega)⟩
    have hread : (s.writeBlock bs).mem.read a = s.mem.read a := by
      rw [State.writeBlock_mem, Memory.read_writeBytes, dif_neg hout]
    exact hread
  all_goals rfl

/-- Replacing the registers keeps every frame that gives up each register changed. -/
theorem keepsAllBut_setRegs {p : Component → Prop} (s : State) (w : Vector Byte 16)
    (h : ∀ r, ¬ p (.reg r) → (s.setRegs w).readV r = s.readV r) : KeepsAllBut p s (s.setRegs w) := by
  intro c hc
  cases c
  case reg r => exact h r hc
  all_goals rfl

theorem keepsAllBut_loadRegBlock (s : State) (x : Nibble) : KeepsAllBut (regsUpTo x) s (s.loadRegBlock x) := by
  refine keepsAllBut_setRegs s _ fun r hr => (s.readV_loadRegBlock x r).trans (if_neg fun hle => hr ?_)
  exact ⟨r, hle, rfl⟩

/-! ## The bounds check and its fault -/

/-- R66: a block of `n + 1` bytes is in bounds when its last address is at most 4095. -/
theorem blockInBounds_succ (s : State) (n : Nat) : s.blockInBounds (n + 1) = true ↔ s.i.toNat + n ≤ 4095 := by
  rw [State.blockInBounds, inBounds_eq_true]
  omega

/-- The opcode a fault of class `0xF` records. -/
theorem formatRimm_classF_eq_ofNat (x : Nibble) (nn : Byte) :
    formatRimm 0xF x nn = BitVec.ofNat 16 (0xF000 + nn.toNat + x.toNat * 256) := by
  have := x.isLt
  have := nn.isLt
  apply BitVec.eq_of_toNat_eq
  rw [toNat_formatRimm, BitVec.toNat_ofNat, show (0xF : Nibble).toNat = 15 from rfl]
  omega

/-- What an instruction of class `0xF` does that goes on to a state with the property `P` where the `n + 1` bytes at `I`
are in bounds, and faults where they are not. -/
theorem block_completes_or_raises {i : Instr} {s t : State} {n : Nat} {x : Nibble} {nn : Byte} {P : State → Prop}
    (h : exec i s = if s.blockInBounds (n + 1) then .next t
      else raise (.outOfBounds (some (formatRimm 0xF x nn)) s.pc) s)
    (hP : P t) :
    (s.i.toNat + n ≤ 4095 → ∃ u, exec i s = .next u ∧ P u) ∧
    (s.i.toNat + n > 4095 →
      Raises (exec i s) (.outOfBounds (some (BitVec.ofNat 16 (0xF000 + nn.toNat + x.toNat * 256))) s.pc)) := by
  constructor
  · intro hin
    rw [if_pos ((blockInBounds_succ s n).2 hin)] at h
    exact ⟨t, h, hP⟩
  · intro hout
    rw [if_neg (mt (blockInBounds_succ s n).1 (by omega)), formatRimm_classF_eq_ofNat] at h
    rw [h]
    exact raises_raise _ s

end Sys2Proof
end

section
/-! PROOFS. The instructions that store and load a block at `I` (43_index_memory.md R193 to R195). -/

namespace Sys2Proof

open Machine

/-! ## Decimal digits -/

/-- A number no greater than some byte fits in a byte, as each decimal digit of that byte does. -/
theorem toNat_ofNat_of_le_byte {b : Byte} {n : Nat} (h : n ≤ b.toNat) : (BitVec.ofNat 8 n).toNat = n :=
  Nat.mod_eq_of_lt (h.trans_lt b.isLt)

/-- Settles O34: the block stored is the three digits, and none of them exceeds `Vx`. -/
theorem storeDecimalDigits : Obligations.StoreDecimalDigits := by
  intro x s
  have hread (k : Nat) (hk : k < 3) :
      ((s.writeBlock (bcdDigits (s.readV x))).mem.read (s.i.toNat + k)).toNat = (bcdDigits (s.readV x))[k].toNat :=
    congrArg BitVec.toNat (read_writeBlock s hk)
  refine block_completes_or_raises (n := 2) (x := x) (nn := 0x33) rfl
    ⟨?_, ?_, ?_, rfl, (keepsAllBut_writeBlock s (bcdDigits (s.readV x))).setPc _⟩
  · exact (hread 0 (by decide)).trans (toNat_ofNat_of_le_byte (b := s.readV x) (by omega))
  · exact (hread 1 (by decide)).trans (toNat_ofNat_of_le_byte (b := s.readV x) (by omega))
  · exact (hread 2 (by decide)).trans (toNat_ofNat_of_le_byte (b := s.readV x) (by omega))

/-! ## Register blocks -/

theorem length_regBlock (s : State) (x : Nibble) : (s.regBlock x).length = x.toNat + 1 := by
  have := x.isLt
  rw [State.regBlock, regCount, List.length_take, Vector.length_toList]
  omega

theorem getElem_regBlock (s : State) {x r : Nibble} (hr : r.toNat < (s.regBlock x).length) :
    (s.regBlock x)[r.toNat] = s.readV r := by
  simp only [State.regBlock, List.getElem_take, Vector.getElem_toList, State.readV_eq]

/-- Settles O35: the block stored is the registers, `V[r]` at place `r`. -/
theorem storeRegisterBlock : Obligations.StoreRegisterBlock := by
  intro x s
  refine block_completes_or_raises (n := x.toNat) (x := x) (nn := 0x55) rfl ⟨fun r hr => ?_, rfl, ?_⟩
  · have hlt : r.toNat < (s.regBlock x).length := by rw [length_regBlock]; omega
    exact (read_writeBlock s hlt).trans (getElem_regBlock s hlt)
  · rw [← length_regBlock s x]
    exact (keepsAllBut_writeBlock s _).setPc _

/-- Settles O36: the registers up to `Vx` are read from the block, and no other register is written. -/
theorem loadRegisterBlock : Obligations.LoadRegisterBlock := by
  intro x s
  refine block_completes_or_raises (n := x.toNat) (x := x) (nn := 0x65) rfl
    ⟨fun r hr => ?_, rfl, (keepsAllBut_loadRegBlock s x).setPc _⟩
  exact (s.readV_loadRegBlock x r).trans (if_pos hr)

end Sys2Proof
end

section
/-! PROOFS. The display buffer and its `dirty` flag written, and `00E0` (44_display.md R210). -/

namespace Sys2Proof

open Machine

/-! ## Frames -/

/-- Replacing the display keeps every frame that already gives up all its pixels. -/
theorem KeepsAllBut.setDisp {p : Component → Prop} {s t : State} (h : KeepsAllBut p s t) (hp : ∀ q, p (.pixel q))
    (d : Display) : KeepsAllBut p s (t.setDisp d) := by
  intro c hc
  have hsame : Component.same s t c := h c hc
  cases c
  case pixel q => exact absurd (hp q) hc
  all_goals exact hsame

theorem KeepsAllBut.setDirty {p : Component → Prop} {s t : State} (h : KeepsAllBut p s t) (hp : p .dirty) (b : Bool) :
    KeepsAllBut p s (t.setDirty b) := by
  intro c hc
  have hsame : Component.same s t c := h c hc
  cases c
  case dirty => exact absurd hp hc
  all_goals exact hsame

/-! ## The instruction -/

/-- Settles O38: the display becomes the blank one and `dirty` is set, one write after the other. -/
theorem clearDisplay : Obligations.ClearDisplay := by
  intro s
  have hdisp : KeepsAllBut (either allPixels (only .dirty)) s (s.setDisp Display.blank) :=
    (KeepsAllBut.refl _ s).setDisp (fun q => .inl ⟨q, rfl⟩) _
  exact ⟨_, rfl, Display.pixel_blank, rfl, rfl, (hdisp.setDirty (.inr rfl) _).setPc _⟩

end Sys2Proof
end

section
/-! PROOFS. The timers written, and the instructions that read and set them (45_keypad_timers.md R223 to R225). -/

namespace Sys2Proof

open Machine

/-! ## Frames -/

theorem keepsAllBut_setDt (s : State) (b : Byte) : KeepsAllBut (only .delay) s (s.setDt b) := by
  intro c hc
  cases c
  case delay => exact absurd rfl hc
  all_goals rfl

theorem keepsAllBut_setSt (s : State) (b : Byte) : KeepsAllBut (only .sound) s (s.setSt b) := by
  intro c hc
  cases c
  case sound => exact absurd rfl hc
  all_goals rfl

/-! ## The instructions -/

/-- Settles O44: `FX07` is a register write of `dt`, and `FX15` and `FX18` each write one timer; all three then advance. -/
theorem timerAccess : Obligations.TimerAccess := by
  intro x s
  refine ⟨writeV_completes rfl, ?_, ?_⟩
  · exact ⟨_, rfl, rfl, rfl, (keepsAllBut_setDt s (s.readV x)).setPc _⟩
  · exact ⟨_, rfl, rfl, rfl, (keepsAllBut_setSt s (s.readV x)).setPc _⟩

end Sys2Proof
end

section
/-! PROOFS. The word an instruction was decoded from, and that the decoder refuses exactly the illegal words
(30_encoding.md R94 to R98). -/

namespace Sys2Proof

/-! ## A format with some of its fields fixed -/

section Formats

variable {op : Word16} {c n : Nibble} {nn : Byte}

theorem formatAddr_of_class (hc : (fieldClass op).toNat = c.toNat) : formatAddr c (fieldNNN op) = op := by
  rw [← BitVec.eq_of_toNat_eq hc, formatAddr_fields]

theorem formatRimm_of_class_nn (hc : (fieldClass op).toNat = c.toNat) (hnn : fieldNN op = nn) :
    formatRimm c (fieldX op) nn = op := by
  rw [← BitVec.eq_of_toNat_eq hc, ← hnn, formatRimm_fields]

theorem formatRr_of_class_n (hc : (fieldClass op).toNat = c.toNat) (hn : fieldN op = n) :
    formatRr c (fieldX op) (fieldY op) n = op := by
  rw [← BitVec.eq_of_toNat_eq hc, ← hn, formatRr_fields]

end Formats

/-! ## Encoding what was decoded -/

section Encode

variable {op : Word16} {i : Instr}

/-- One test of a sub-selector: the word is encoded back if the test's own answer and what follows it encode it back. -/
theorem encode_of_ite {p : Prop} [Decidable p] {j : Instr} {r : Except DecodeError Instr} (hj : p → encode j = op)
    (hr : r = .ok i → encode i = op) : (if p then .ok j else r) = .ok i → encode i = op := by
  intro h
  split at h
  · cases h; exact hj ‹p›
  · exact hr h

theorem encode_of_decodeClass0 : decodeClass0 op = .ok i → encode i = op :=
  encode_of_ite Eq.symm (encode_of_ite Eq.symm nofun)

theorem encode_of_decodeClass8 (hc : (fieldClass op).toNat = 0x8) (h : decodeClass8 op = .ok i) : encode i = op := by
  unfold decodeClass8 at h
  split at h
  all_goals cases h
  all_goals exact formatRr_of_class_n hc (BitVec.eq_of_toNat_eq ‹(fieldN op).toNat = _›)

theorem encode_of_decodeClassE (hc : (fieldClass op).toNat = 0xE) : decodeClassE op = .ok i → encode i = op :=
  encode_of_ite (formatRimm_of_class_nn hc) (encode_of_ite (formatRimm_of_class_nn hc) nofun)

theorem encode_of_decodeClassF (hc : (fieldClass op).toNat = 0xF) : decodeClassF op = .ok i → encode i = op := by
  unfold decodeClassF
  repeat refine encode_of_ite (formatRimm_of_class_nn hc) ?_
  exact nofun

/-- A word is determined by the instruction it decodes to: every bit of it is fixed by the class, by the sub-selector or by
an operand (log 8). -/
theorem encode_of_decodeWord (h : decodeWord op = .ok i) : encode i = op := by
  unfold decodeWord at h
  split at h
  case h_1 => exact encode_of_decodeClass0 h
  case h_6 | h_10 => revert h; exact encode_of_ite (formatRr_of_class_n ‹_›) nofun
  case h_9 => exact encode_of_decodeClass8 ‹_› h
  case h_15 => exact encode_of_decodeClassE ‹_› h
  case h_16 =>
    have hlt := (fieldClass op).isLt
    exact encode_of_decodeClassF (by simp only [imp_false] at *; omega) h
  case h_2 | h_3 | h_11 | h_12 => cases h; exact formatAddr_of_class ‹_›
  case h_14 => cases h; exact formatRr_of_class_n ‹_› rfl
  all_goals cases h; exact formatRimm_of_class_nn ‹_› rfl

end Encode

/-! ## Words that a row selects -/

section Rows

variable {op bits : Word16} {pattern : String}

theorem fieldClass_of_selects (h : Row.selects ⟨pattern, 0xF000, bits⟩ op = true) : fieldClass op = fieldClass bits := by
  rw [← show op &&& 0xF000 = bits from eq_of_beq h, and_maskClass, fieldClass_formatAddr]

theorem fieldClass_fieldN_of_selects (h : Row.selects ⟨pattern, 0xF00F, bits⟩ op = true) :
    fieldClass op = fieldClass bits ∧ fieldN op = fieldN bits := by
  rw [← show op &&& 0xF00F = bits from eq_of_beq h, and_maskRr, fieldClass_formatRr, fieldN_formatRr]
  exact ⟨rfl, rfl⟩

theorem fieldClass_fieldNN_of_selects (h : Row.selects ⟨pattern, 0xF0FF, bits⟩ op = true) :
    fieldClass op = fieldClass bits ∧ fieldNN op = fieldNN bits := by
  rw [← show op &&& 0xF0FF = bits from eq_of_beq h, and_maskRsub, fieldClass_formatRimm, fieldNN_formatRimm]
  exact ⟨rfl, rfl⟩

theorem eq_of_selects (h : Row.selects ⟨pattern, 0xFFFF, bits⟩ op = true) : op = bits := by
  rw [← show op &&& 0xFFFF = bits from eq_of_beq h, and_maskWord]

/-- A word that some row selects decodes: by its class alone, by class and `n`, by class and `nn`, or as a whole word. -/
theorem decodeWord_of_row_selects {i : Instr} (h : i.row.selects op = true) : ∃ j, decodeWord op = .ok j := by
  cases i
  case cls | ret =>
    obtain rfl := eq_of_selects h
    exact ⟨_, rfl⟩
  case seReg | sneReg | ldReg | orReg | andReg | xorReg | addReg | subReg | shr | subn | shl =>
    obtain ⟨hc, hn⟩ := fieldClass_fieldN_of_selects h
    exact ⟨_, by simp only [decodeWord, decodeClass8, hc, hn]; rfl⟩
  case skp | sknp | ldFromDelay | waitKey | setDelay | setSound | addIndex | ldGlyph | storeBcd | storeRegs | loadRegs =>
    obtain ⟨hc, hnn⟩ := fieldClass_fieldNN_of_selects h
    exact ⟨_, by simp only [decodeWord, decodeClassE, decodeClassF, hc, hnn]; rfl⟩
  all_goals
    have hc := fieldClass_of_selects h
    exact ⟨_, by simp only [decodeWord, hc]; rfl⟩

end Rows

/-- Every instruction stands in a row of the opcode map that selects its encoding (R95). -/
theorem encodeRow_statement : ∀ i : Instr, Laws.EncodeRow.Statement i
  | .cls => Laws.EncodeRow.cls
  | .ret => Laws.EncodeRow.ret
  | .jp nnn => Laws.EncodeRow.jp nnn
  | .call nnn => Laws.EncodeRow.call nnn
  | .seImm x nn => Laws.EncodeRow.seImm x nn
  | .sneImm x nn => Laws.EncodeRow.sneImm x nn
  | .seReg x y => Laws.EncodeRow.seReg x y
  | .ldImm x nn => Laws.EncodeRow.ldImm x nn
  | .addImm x nn => Laws.EncodeRow.addImm x nn
  | .ldReg x y => Laws.EncodeRow.ldReg x y
  | .orReg x y => Laws.EncodeRow.orReg x y
  | .andReg x y => Laws.EncodeRow.andReg x y
  | .xorReg x y => Laws.EncodeRow.xorReg x y
  | .addReg x y => Laws.EncodeRow.addReg x y
  | .subReg x y => Laws.EncodeRow.subReg x y
  | .shr x y => Laws.EncodeRow.shr x y
  | .subn x y => Laws.EncodeRow.subn x y
  | .shl x y => Laws.EncodeRow.shl x y
  | .sneReg x y => Laws.EncodeRow.sneReg x y
  | .ldIndex nnn => Laws.EncodeRow.ldIndex nnn
  | .jpV0 nnn => Laws.EncodeRow.jpV0 nnn
  | .rnd x nn => Laws.EncodeRow.rnd x nn
  | .drw x y n => Laws.EncodeRow.drw x y n
  | .skp x => Laws.EncodeRow.skp x
  | .sknp x => Laws.EncodeRow.sknp x
  | .ldFromDelay x => Laws.EncodeRow.ldFromDelay x
  | .waitKey x => Laws.EncodeRow.waitKey x
  | .setDelay x => Laws.EncodeRow.setDelay x
  | .setSound x => Laws.EncodeRow.setSound x
  | .addIndex x => Laws.EncodeRow.addIndex x
  | .ldGlyph x => Laws.EncodeRow.ldGlyph x
  | .storeBcd x => Laws.EncodeRow.storeBcd x
  | .storeRegs x => Laws.EncodeRow.storeRegs x
  | .loadRegs x => Laws.EncodeRow.loadRegs x

/-! ## The illegal words -/

/-- R96: the legal words are those that decode. -/
theorem legalWord_eq_true_iff (op : Word16) : legalWord op = true ↔ ∃ i, decodeWord op = .ok i := by
  constructor
  · intro h
    obtain ⟨r, hr, hsel⟩ := List.any_eq_true.1 h
    obtain ⟨i, -, rfl⟩ := List.mem_map.1 hr
    exact decodeWord_of_row_selects hsel
  · rintro ⟨i, hi⟩
    obtain ⟨hrow, hsel⟩ := encodeRow_statement i
    rw [encode_of_decodeWord hi] at hsel
    exact List.any_eq_true.2 ⟨i.row, hrow, hsel⟩

theorem legalWord_eq_false_iff (op : Word16) : legalWord op = false ↔ ∃ e, decodeWord op = .error e := by
  rw [← Bool.not_eq_true, legalWord_eq_true_iff]
  cases decodeWord op <;> simp

theorem decodeWord_eq_call_iff (op : Word16) : (∃ nnn, decodeWord op = .ok (.call nnn)) ↔ op.toNat / 4096 = 2 := by
  rw [← toNat_fieldClass]
  constructor
  · rintro ⟨nnn, h⟩
    rw [← encode_of_decodeWord h, encode, fieldClass_formatAddr]
    rfl
  · intro h
    exact ⟨fieldNNN op, by simp only [decodeWord, h]⟩

theorem decodeWord_eq_ret_iff (op : Word16) : decodeWord op = .ok .ret ↔ op = 0x00EE := by
  constructor
  · intro h
    exact (encode_of_decodeWord h).symm
  · rintro rfl
    rfl

end Sys2Proof
end

section
/-! PROOFS. Which fault an instruction raises and when, and which fault a Step raises (60_exceptions.md R241 to R243). -/

namespace Sys2Proof

open Machine

/-! ## Raising or going on -/

theorem raises_raise_iff {s : State} {f g : Fault} : Raises (raise f s) g ↔ g = f := by
  constructor
  · rintro ⟨t, ht, -, hg⟩
    rw [(raise_eq_next s f t).1 ht, State.enterFault_fault] at hg
    exact (Option.some.inj hg).symm
  · rintro rfl
    exact raises_raise g s

theorem not_raises_next {t : State} (h : t.run ≠ .faulted) (f : Fault) : ¬ Raises (.next t) f := by
  rintro ⟨u, hu, hrun, -⟩
  cases hu
  exact h hrun

/-- What goes on under a check raises its fault exactly where the check fails. -/
theorem raises_ite_iff {s t : State} {c : Bool} {f g : Fault} (h : t.run ≠ .faulted) :
    Raises (if c then .next t else raise g s) f ↔ c = false ∧ f = g := by
  cases c
  · simpa using raises_raise_iff
  · simpa using not_raises_next h f

/-! ## The bounds checks as numbers -/

theorem blockInBounds_eq_false_iff (s : State) (n : Nat) :
    s.blockInBounds n = false ↔ 1 ≤ n ∧ s.i.toNat + n - 1 > 4095 := by
  rw [State.blockInBounds, inBounds_eq_false]
  omega

theorem blockInBounds_succ_eq_false_iff (s : State) (n : Nat) :
    s.blockInBounds (n + 1) = false ↔ s.i.toNat + n > 4095 := by
  rw [blockInBounds_eq_false_iff]
  omega

theorem keyIndex_eq_none_iff (b : Byte) : keyIndex b = none ↔ b.toNat > 15 := by
  rw [keyIndex]
  split <;> simp <;> omega

/-! ## The faults of the instructions -/

/-- The instruction raises the fault: R243 for `00EE` and `2NNN`, R242 (b) to (e) for the rest. -/
def Instr.Faults (s : State) (f : Fault) : Instr → Prop
  | .ret => s.sp.val = 0 ∧ f = .stackUnderflow (encode .ret) s.pc
  | .call nnn => s.sp.val = 16 ∧ f = .stackOverflow (encode (.call nnn)) s.pc
  | i => ReachesOutOfBounds s i ∧ f = .outOfBounds (some (encode i)) s.pc

section Exec

variable {s : State} (hrun : s.run ≠ .faulted) (f : Fault)

include hrun

theorem raises_ret_iff : Raises (exec .ret s) f ↔ Instr.ret.Faults s f := by
  by_cases hsp : s.sp.val = 0
  · rw [exec_ret_of_empty hsp, raises_raise_iff]
    exact (and_iff_right hsp).symm
  · have hpop := (s.pop_eq_some _ _).2 ⟨Nat.pos_of_ne_zero hsp, rfl, rfl⟩
    rw [exec_ret_of_pop hpop]
    exact iff_of_false (not_raises_next (by exact hrun) f) fun h => hsp h.1

theorem raises_call_iff (nnn : Addr12) : Raises (exec (.call nnn) s) f ↔ (Instr.call nnn).Faults s f := by
  by_cases hsp : s.sp.val = 16
  · rw [exec_call_of_full nnn hsp, raises_raise_iff]
    exact (and_iff_right hsp).symm
  · have hlt : s.sp.val < 16 := by omega
    have hpush := (s.push_eq_some s.npc _).2 ⟨hlt, rfl⟩
    rw [exec_call_of_push nnn hpush]
    exact iff_of_false (not_raises_next (by exact hrun) f) fun h => hsp h.1

/-- What a block instruction, which goes on where its `n` bytes at `I` are in bounds, raises. -/
theorem raises_block_iff {i : Instr} {t : State} {n : Nat} {g : Fault} {outside : Prop}
    (h : exec i s = if s.blockInBounds n then .next t else raise g s) (ht : t.run = s.run)
    (hout : s.blockInBounds n = false ↔ outside) : Raises (exec i s) f ↔ outside ∧ f = g := by
  rw [h, raises_ite_iff (ht ▸ hrun), hout]

/-- A key skip faults where its register selects no key. -/
theorem raises_keySkip_iff {i : Instr} {x : Nibble} {c : Fin 16 → Bool} {g : Fault}
    (hsome : ∀ k, keyIndex (s.readV x) = some k → exec i s = .next (s.skipIf (c k)))
    (hnone : keyIndex (s.readV x) = none → exec i s = raise g s) :
    Raises (exec i s) f ↔ (s.readV x).toNat > 15 ∧ f = g := by
  rw [← keyIndex_eq_none_iff]
  rcases hkey : keyIndex (s.readV x) with _ | k
  · rw [hnone hkey, raises_raise_iff]
    simp
  · rw [hsome k hkey]
    exact iff_of_false (not_raises_next (by exact hrun) f) fun h => nomatch h.1

/-- Everything an instruction can raise, with the condition under which it does. -/
theorem raises_exec_iff (i : Instr) : Raises (exec i s) f ↔ i.Faults s f := by
  cases i
  case ret => exact raises_ret_iff hrun f
  case call nnn => exact raises_call_iff hrun f nnn
  case drw x y n => exact raises_block_iff hrun f rfl rfl (blockInBounds_eq_false_iff s n.toNat)
  case storeBcd x => exact raises_block_iff hrun f rfl rfl (blockInBounds_succ_eq_false_iff s 2)
  case storeRegs x => exact raises_block_iff hrun f rfl rfl (blockInBounds_succ_eq_false_iff s x.toNat)
  case loadRegs x => exact raises_block_iff hrun f rfl (by simp) (blockInBounds_succ_eq_false_iff s x.toNat)
  case skp x =>
    exact raises_keySkip_iff hrun f (c := s.readKey)
      (fun k hk => by simp only [exec, execSkp, hk]) fun hk => by simp only [exec, execSkp, hk]
  case sknp x =>
    exact raises_keySkip_iff hrun f (c := fun k => !s.readKey k)
      (fun k hk => by simp only [exec, execSknp, hk]) fun hk => by simp only [exec, execSknp, hk]
  case waitKey x => exact iff_of_false (not_raises_next (by simp) f) fun h => h.1
  all_goals exact iff_of_false (not_raises_next (by exact hrun) f) fun h => h.1

end Exec

/-! ## The faults of a Step -/

theorem step_illegal {s : State} {op : Word16} (hrun : s.run = .running) (hfetch : s.fetch = some op)
    (hill : legalWord op = false) : step s = raise (.unknownOpcode op s.pc) s := by
  obtain ⟨e, hdec⟩ := (legalWord_eq_false_iff op).1 hill
  simp only [step, hrun, hfetch, hdec]

/-- Everything a running Step can raise: the fault of the fetch, that of the decoder, or one of the instruction. -/
theorem raises_step_iff {s : State} (hrun : s.run = .running) (f : Fault) :
    Raises (step s) f ↔
      (s.fetch = none ∧ f = .outOfBounds none s.pc) ∨
      (∃ op, s.fetch = some op ∧ legalWord op = false ∧ f = .unknownOpcode op s.pc) ∨
      ∃ op i, s.fetch = some op ∧ decodeWord op = .ok i ∧ i.Faults s f := by
  rcases hfetch : s.fetch with _ | op
  · rw [step_fetch_none hrun hfetch, raises_raise_iff]
    simp
  · rcases hdec : decodeWord op with e | i
    · have hill : legalWord op = false := (legalWord_eq_false_iff op).2 ⟨e, hdec⟩
      rw [step_illegal hrun hfetch hill, raises_raise_iff]
      simp [hdec, hill]
    · have hleg : legalWord op = true := (legalWord_eq_true_iff op).2 ⟨i, hdec⟩
      have hne : s.run ≠ .faulted := by simp [hrun]
      rw [step_exec hrun hfetch hdec, raises_exec_iff hne]
      simp [hdec, hleg]

/-! ## Which instruction raises which fault -/

section Faults

variable {i : Instr} {s : State} {op pc0 : Word16}

theorem Instr.not_faults_unknownOpcode : ¬ i.Faults s (.unknownOpcode op pc0) := by
  cases i <;> simp [Instr.Faults]

theorem Instr.faults_stackUnderflow_iff :
    i.Faults s (.stackUnderflow op pc0) ↔ i = .ret ∧ s.sp.val = 0 ∧ op = 0x00EE ∧ pc0 = s.pc := by
  cases i
  case ret => simp [Instr.Faults, encode]
  all_goals simp [Instr.Faults]

theorem Instr.faults_stackOverflow_iff :
    i.Faults s (.stackOverflow op pc0) ↔ (∃ nnn, i = .call nnn) ∧ s.sp.val = 16 ∧ op = encode i ∧ pc0 = s.pc := by
  cases i <;> simp [Instr.Faults]

end Faults

/-! ## The obligations -/

/-- Settles O11: of the faults of a Step only the decoder's is `UnknownOpcode`, and the decoder refuses the illegal words. -/
theorem unknownOpcodeExactlyOnIllegalWord : Obligations.UnknownOpcodeExactlyOnIllegalWord := by
  intro s op pc0 hrun
  rw [raises_step_iff hrun]
  constructor
  · rintro (⟨-, ⟨⟩⟩ | ⟨_, hfetch, hill, ⟨⟩⟩ | ⟨_, _, -, -, hfault⟩)
    · exact ⟨hfetch, hill, rfl⟩
    · exact absurd hfault Instr.not_faults_unknownOpcode
  · rintro ⟨hfetch, hill, rfl⟩
    exact .inr (.inl ⟨op, hfetch, hill, rfl⟩)

/-- Settles O13: only `00EE` raises the one and only `2NNN` the other, and encoding either gives back the fetched word. -/
theorem stackFaultsExactCases : Obligations.StackFaultsExactCases := by
  intro s op pc0 hrun
  rw [raises_step_iff hrun, raises_step_iff hrun]
  constructor
  · constructor
    · rintro (⟨-, ⟨⟩⟩ | ⟨_, -, -, ⟨⟩⟩ | ⟨w, i, hfetch, hdec, hfault⟩)
      obtain ⟨rfl, hsp, hop, hpc⟩ := Instr.faults_stackUnderflow_iff.1 hfault
      rw [(decodeWord_eq_ret_iff w).1 hdec] at hfetch
      exact ⟨hfetch, hsp, hop, hpc⟩
    · rintro ⟨hfetch, hsp, hop, hpc⟩
      have hfault := Instr.faults_stackUnderflow_iff.2 ⟨rfl, hsp, hop, hpc⟩
      exact .inr (.inr ⟨_, .ret, hfetch, (decodeWord_eq_ret_iff _).2 rfl, hfault⟩)
  · constructor
    · rintro (⟨-, ⟨⟩⟩ | ⟨_, -, -, ⟨⟩⟩ | ⟨w, i, hfetch, hdec, hfault⟩)
      obtain ⟨⟨nnn, rfl⟩, hsp, hop, hpc⟩ := Instr.faults_stackOverflow_iff.1 hfault
      rw [encode_of_decodeWord hdec] at hop
      subst hop
      exact ⟨hfetch, (decodeWord_eq_call_iff op).1 ⟨nnn, hdec⟩, hsp, hpc⟩
    · rintro ⟨hfetch, hclass, hsp, hpc⟩
      obtain ⟨nnn, hdec⟩ := (decodeWord_eq_call_iff op).2 hclass
      have hfault := Instr.faults_stackOverflow_iff.2 ⟨⟨nnn, rfl⟩, hsp, (encode_of_decodeWord hdec).symm, hpc⟩
      exact .inr (.inr ⟨op, _, hfetch, hdec, hfault⟩)

end Sys2Proof
end

section
/-! PROOFS. TickDelay and KeyRelease, the host's transactions that count the delay timer down and clear a key flag
(60_exceptions.md R253, R256). -/

namespace Sys2Proof

open Machine

/-- Settles O46: past the gate TickDelay is a write of `dt`, one down. -/
theorem tickDelayCountsDown : Obligations.TickDelayCountsDown := by
  intro s hrun
  exact ⟨_, s.unlessFaulted_of_ne hrun _, toNat_countDown s.dt, rfl, keepsAllBut_setDt s (countDown s.dt)⟩

theorem keepsAllBut_writeKey (s : State) (k : Fin 16) (b : Bool) : KeepsAllBut (only (.key k)) s (s.writeKey k b) := by
  intro c hc
  cases c
  case key j => exact (s.readKey_writeKey k j b).trans (if_neg fun e => hc (congrArg Component.key e))
  all_goals rfl

theorem keyRelease_of_lt (s : State) (k : Fin 16) : keyRelease k.val s = s.unlessFaulted (.next (s.writeKey k false)) :=
  dif_pos k.isLt

/-- Settles O48: past the gate KeyRelease is a write of the one key flag; the run state is another component. -/
theorem keyReleaseClearsFlag : Obligations.KeyReleaseClearsFlag := by
  intro s k hrun
  have hread : (s.writeKey k false).readKey k = false := (s.readKey_writeKey k k false).trans (if_pos rfl)
  rw [keyRelease_of_lt]
  exact ⟨_, State.unlessFaulted_of_ne hrun _, hread, rfl, keepsAllBut_writeKey s k false⟩

end Sys2Proof
end

section
/-! PROOFS. The encoder, the decoder and the opcode map against each other (30_encoding.md R91 to R97). -/

namespace Sys2Proof

/-! ## Decoding what was encoded -/

/-- The class nibble of the encoding selects the decoder's branch, and the fields of the format are the operands. -/
theorem decodeWord_encode (i : Instr) : decodeWord (encode i) = .ok i := by
  cases i
  case cls | ret => rfl
  case jp | call | ldIndex | jpV0 => simp only [encode, decodeWord, fieldClass_formatAddr, fieldNNN_formatAddr]; rfl
  case seReg | sneReg | ldReg | orReg | andReg | xorReg | addReg | subReg | shr | subn | shl | drw =>
    simp only [encode, decodeWord, decodeClass8, fieldClass_formatRr, fieldX_formatRr, fieldY_formatRr, fieldN_formatRr]
    rfl
  all_goals
    simp only [encode, decodeWord, decodeClassE, decodeClassF, fieldClass_formatRimm, fieldX_formatRimm,
      fieldNN_formatRimm]
    rfl

/-- Settles O1: each format gives back its fields, and its class and sub-selector select the instruction. -/
theorem decodeOfEncode : Obligations.DecodeOfEncode := decodeWord_encode

/-- Settles O2: the converse, proved where the illegal words are. -/
theorem encodeOfDecode : Obligations.EncodeOfDecode := fun _ _ => encode_of_decodeWord

/-! ## The two bytes of a word -/

/-- R62, R90: a word is its high byte and its low byte. -/
theorem opcodeOfBytes_extractLsb' (op : Word16) : opcodeOfBytes (op.extractLsb' 8 8) (op.extractLsb' 0 8) = op := by
  apply BitVec.eq_of_toNat_eq
  simp only [toNat_opcodeOfBytes, BitVec.extractLsb'_toNat, Nat.shiftRight_eq_div_pow]
  have := op.isLt
  omega

/-- Settles O3: the two bytes make the encoding, which decodes to the instruction. -/
theorem decodeOfEncodedBytes : Obligations.DecodeOfEncodedBytes := by
  intro i rest
  simp only [encodeBytes, List.cons_append, List.nil_append, decodeBytes, opcodeOfBytes_extractLsb', decodeWord_encode]

/-! ## The rows of the opcode map -/

/-- Two rows conflict when, on the bits both masks keep, their matches differ. -/
def Row.Conflicts (r r' : Row) : Prop := r.bits &&& r'.mask ≠ r'.bits &&& r.mask

theorem Row.not_selects_of_conflicts {r r' : Row} (h : r.Conflicts r') (op : Word16) :
    ¬ (r.selects op = true ∧ r'.selects op = true) := by
  rintro ⟨hr, hr'⟩
  have e : op &&& r.mask = r.bits := eq_of_beq hr
  have e' : op &&& r'.mask = r'.bits := eq_of_beq hr'
  apply h
  rw [← e, ← e', BitVec.and_assoc, BitVec.and_assoc, BitVec.and_comm r.mask]

theorem opcodeMap_pairwise_conflicts : opcodeMap.Pairwise Row.Conflicts := by
  unfold Row.Conflicts
  decide

theorem eq_of_selects_of_selects {r r' : Row} (hr : r ∈ opcodeMap) (hr' : r' ∈ opcodeMap) {op : Word16}
    (h : r.selects op = true) (h' : r'.selects op = true) : r = r' := by
  have : Std.Symm Row.Conflicts := ⟨fun _ _ => Ne.symm⟩
  by_contra hne
  exact Row.not_selects_of_conflicts (opcodeMap_pairwise_conflicts.forall hr hr' hne) op ⟨h, h'⟩

theorem row_mem_opcodeMap (i : Instr) : i.row ∈ opcodeMap := (encodeRow_statement i).1

/-- The row of the instruction a word decodes to selects the word. -/
theorem row_selects_of_decodeWord {op : Word16} {i : Instr} (h : decodeWord op = .ok i) : i.row.selects op = true := by
  have hsel : i.row.selects (encode i) = true := (encodeRow_statement i).2
  rwa [encode_of_decodeWord h] at hsel

/-- Settles O4: a word some row selects decodes, the row of what it decodes to selects it too, and no two rows do. -/
theorem opcodeMapSelectsDecoding : Obligations.OpcodeMapSelectsDecoding := by
  refine ⟨fun op r hr => ⟨fun hsel => ?_, ?_⟩, opcodeMap_pairwise_conflicts.imp Row.not_selects_of_conflicts, rfl⟩
  · obtain ⟨i, -, hi⟩ := List.mem_map.1 hr
    obtain ⟨j, hj⟩ := decodeWord_of_row_selects (hi ▸ hsel)
    exact ⟨j, hj, eq_of_selects_of_selects (row_mem_opcodeMap j) hr (row_selects_of_decodeWord hj) hsel⟩
  · rintro ⟨i, hi, rfl⟩
    exact row_selects_of_decodeWord hi

/-! ## The illegal words by class -/

section Classes

variable {op : Word16} {e : DecodeError}

/-- One test of a sub-selector: an error is the error of what follows the test. -/
theorem ite_ok_eq_error_iff {p : Prop} [Decidable p] {i : Instr} {r : Except DecodeError Instr} :
    (if p then .ok i else r) = .error e ↔ ¬ p ∧ r = .error e := by
  split <;> simp [*]

theorem decodeClass0_eq_error_iff :
    decodeClass0 op = .error e ↔ op ≠ 0x00E0 ∧ op ≠ 0x00EE ∧ .unknownOpcode op = e := by
  simp only [decodeClass0, ite_ok_eq_error_iff, Except.error.injEq, ne_eq]

theorem decodeClass8_eq_error_iff :
    decodeClass8 op = .error e ↔
      fieldN op ∈ ([0x8, 0x9, 0xA, 0xB, 0xC, 0xD, 0xF] : List Nibble) ∧ .unknownOpcode op = e := by
  unfold decodeClass8
  generalize fieldN op = n
  obtain ⟨n⟩ := n
  fin_cases n
  all_goals simp

theorem decodeClassE_eq_error_iff :
    decodeClassE op = .error e ↔ fieldNN op ∉ ([0x9E, 0xA1] : List Byte) ∧ .unknownOpcode op = e := by
  simp [decodeClassE, ite_ok_eq_error_iff, and_assoc]

theorem decodeClassF_eq_error_iff :
    decodeClassF op = .error e ↔
      fieldNN op ∉ ([0x07, 0x0A, 0x15, 0x18, 0x1E, 0x29, 0x33, 0x55, 0x65] : List Byte) ∧ .unknownOpcode op = e := by
  simp [decodeClassF, ite_ok_eq_error_iff, and_assoc]

/-- The decoder refuses exactly the words R96 lists, naming the word: of the 16 classes, six refuse words, each by its own
sub-selector. -/
theorem decodeWord_eq_error_iff : decodeWord op = .error e ↔ IllegalByClass op ∧ .unknownOpcode op = e := by
  unfold IllegalByClass decodeWord
  generalize fieldClass op = c
  obtain ⟨c⟩ := c
  fin_cases c
  all_goals simp [decodeClass0_eq_error_iff, decodeClass8_eq_error_iff, decodeClassE_eq_error_iff,
    decodeClassF_eq_error_iff, ite_ok_eq_error_iff, and_assoc]

end Classes

/-- Settles O5: the decoder refuses exactly the words R96 lists, and the words it refuses are those no row selects. -/
theorem illegalWordsByClass : Obligations.IllegalWordsByClass := by
  intro op
  constructor
  · rw [decodeWord_eq_error_iff, and_iff_left rfl]
  · rw [legalWord_eq_false_iff]
    simp only [decodeWord_eq_error_iff, exists_and_left, exists_eq', and_true]

end Sys2Proof
end

section
/-! PROOFS. What every instruction does, said once: it raises a fault or completes, and completing it leaves `pc` where
R130 says and writes only what the state table lists (10_state.md §1; 40_step_engine.md §3). -/

namespace Sys2Proof

open Machine

/-! ## The key skips: the two ways each can go -/

section KeySkips

variable {s : State} {x : Nibble}

theorem exec_skp_of_key {k : Fin 16} (h : keyIndex (s.readV x) = some k) :
    exec (.skp x) s = .next (s.skipIf (s.readKey k)) := by
  simp only [exec, execSkp, h]

theorem exec_sknp_of_key {k : Fin 16} (h : keyIndex (s.readV x) = some k) :
    exec (.sknp x) s = .next (s.skipIf (!s.readKey k)) := by
  simp only [exec, execSknp, h]

theorem exec_skp_of_no_key (h : keyIndex (s.readV x) = none) :
    exec (.skp x) s = raise (.outOfBounds (some (encode (.skp x))) s.pc) s := by
  simp only [exec, execSkp, h]

theorem exec_sknp_of_no_key (h : keyIndex (s.readV x) = none) :
    exec (.sknp x) s = raise (.outOfBounds (some (encode (.sknp x))) s.pc) s := by
  simp only [exec, execSknp, h]

end KeySkips

/-! ## Raising or completing -/

/-- The result is a fault raised from `s`, or a next state with the property. -/
def RaisesOr (P : State → Prop) (s : State) (r : Result) : Prop :=
  (∃ f, r = raise f s) ∨ ∃ t, r = .next t ∧ P t

section RaisesOr

variable {P : State → Prop} {s t : State} {r : Result}

theorem RaisesOr.next (h : P t) : RaisesOr P s (.next t) := .inr ⟨t, rfl, h⟩

theorem RaisesOr.raise (f : Fault) : RaisesOr P s (raise f s) := .inl ⟨f, rfl⟩

/-- A bounds check goes on or raises. -/
theorem RaisesOr.ite {c : Bool} {f : Fault} (h : c = true → P t) :
    RaisesOr P s (if c then .next t else Machine.raise f s) := by
  cases c
  case false => exact .raise f
  case true => exact .next (h rfl)

/-- A next state that is not faulted was not raised. -/
theorem RaisesOr.of_next (h : RaisesOr P s r) (hr : r = .next t) (hrun : t.run ≠ .faulted) : P t := by
  subst hr
  rcases h with ⟨f, hf⟩ | ⟨u, hu, hP⟩
  · rw [(raise_eq_next s f t).1 hf.symm] at hrun
    exact absurd rfl hrun
  · cases hu
    exact hP

/-- A next state is a fault taken or has the property. -/
theorem RaisesOr.cases_next (h : RaisesOr P s r) (hr : r = .next t) : (∃ f, t = s.enterFault f) ∨ P t := by
  subst hr
  rcases h with ⟨f, hf⟩ | ⟨u, hu, hP⟩
  · exact .inl ⟨f, (raise_eq_next s f t).1 hf.symm⟩
  · cases hu
    exact .inr hP

theorem RaisesOr.imp {Q : State → Prop} (h : RaisesOr P s r) (hPQ : ∀ t, P t → Q t) : RaisesOr Q s r :=
  Or.imp_right (fun ⟨t, ht, hP⟩ => ⟨t, ht, hPQ t hP⟩) h

theorem RaisesOr.and {Q : State → Prop} (hP : RaisesOr P s r) (hQ : RaisesOr Q s r) :
    RaisesOr (fun t => P t ∧ Q t) s r := by
  rcases hP with hraise | ⟨t, rfl, hP⟩
  · exact .inl hraise
  · exact Or.imp_right (fun ⟨u, hu, hQ⟩ => ⟨t, rfl, hP, by cases hu; exact hQ⟩) hQ

theorem RaisesOr.exists_next (h : RaisesOr P s r) : ∃ t, r = .next t := by
  rcases h with ⟨f, rfl⟩ | ⟨t, rfl, -⟩
  · exact ⟨_, rfl⟩
  · exact ⟨t, rfl⟩

/-! The instructions that go on under another condition than a bounds check. -/

theorem RaisesOr.ret (h : ∀ a u, s.pop = some (a, u) → P (u.setPc a)) : RaisesOr P s (exec .ret s) := by
  rcases hpop : s.pop with _ | ⟨a, u⟩
  · rw [exec_ret_of_empty (s.pop_eq_none.1 hpop)]
    exact .raise _
  · rw [exec_ret_of_pop hpop]
    exact .next (h a u hpop)

theorem RaisesOr.call {nnn : Addr12} (h : ∀ u, s.push s.npc = some u → P (u.setPc (zextAddr nnn))) :
    RaisesOr P s (exec (.call nnn) s) := by
  rcases hpush : s.push s.npc with _ | u
  · rw [exec_call_of_full nnn ((s.push_eq_none _).1 hpush)]
    exact .raise _
  · rw [exec_call_of_push nnn hpush]
    exact .next (h u hpush)

theorem RaisesOr.skp {x : Nibble} (h : ∀ k, keyIndex (s.readV x) = some k → P (s.skipIf (s.readKey k))) :
    RaisesOr P s (exec (.skp x) s) := by
  rcases hkey : keyIndex (s.readV x) with _ | k
  · rw [exec_skp_of_no_key hkey]
    exact .raise _
  · rw [exec_skp_of_key hkey]
    exact .next (h k hkey)

theorem RaisesOr.sknp {x : Nibble} (h : ∀ k, keyIndex (s.readV x) = some k → P (s.skipIf (!s.readKey k))) :
    RaisesOr P s (exec (.sknp x) s) := by
  rcases hkey : keyIndex (s.readV x) with _ | k
  · rw [exec_sknp_of_no_key hkey]
    exact .raise _
  · rw [exec_sknp_of_key hkey]
    exact .next (h k hkey)

end RaisesOr

/-! ## Completing -/

/-- What a completed instruction leaves: the program counter of R130, and every component unchanged that the state table
does not list as written. -/
structure Completed (i : Instr) (s t : State) : Prop where
  pc : t.pc = nextPc s i
  frame : KeepsAllBut (fun c => c.writtenBy i = true) s t

/-- R222: a byte that selects a key selects the key of its number. -/
theorem eq_ofNat_of_keyIndex {b : Byte} {k : Fin 16} (h : keyIndex b = some k) : k = Fin.ofNat 16 b.toNat := by
  unfold keyIndex at h
  split at h
  · rename_i hlt
    cases h
    exact Fin.ext (Nat.mod_eq_of_lt hlt).symm
  · cases h

theorem completed_skipIf {i : Instr} {s : State} {c : Bool} (h : nextPc s i = skipTarget s c) :
    Completed i s (s.skipIf c) :=
  ⟨(skipIf_pc_eq_skipTarget s c).trans h.symm, (KeepsAllBut.refl _ s).setPc _⟩

theorem KeepsAllBut.mono {p q : Component → Prop} {s t : State} (h : KeepsAllBut p s t) (hpq : ∀ c, p c → q c) :
    KeepsAllBut q s t :=
  fun c hc => h c (mt (hpq c) hc)

theorem KeepsAllBut.spendFree {p : Component → Prop} {s t : State} (h : KeepsAllBut p s t) (hp : p .free) :
    KeepsAllBut p s t.spendFree := by
  intro c hc
  have hsame : Component.same s t c := h c hc
  cases c
  case free => exact absurd hp hc
  all_goals exact hsame

theorem keepsAllBut_enterWait (s : State) (x : Nibble) :
    KeepsAllBut (either (only .run) (only .waitX)) s (s.enterWait x) := by
  intro c hc
  cases c
  case run => exact absurd (.inl rfl) hc
  case waitX => exact absurd (.inr rfl) hc
  all_goals rfl

/-- Everything an instruction can do: raise a fault or complete. -/
theorem exec_raises_or_completes (i : Instr) (s : State) : RaisesOr (Completed i s) s (exec i s) := by
  have keeps {i : Instr} : KeepsAllBut (fun c => c.writtenBy i = true) s s := .refl _ s
  cases i
  case ret =>
    refine .ret fun a u hpop => ⟨?_, ((keepsAllBut_of_pop hpop).setPc a).mono (by rintro _ rfl; rfl)⟩
    obtain ⟨hsp, rfl, -⟩ := (s.pop_eq_some a u).1 hpop
    rw [State.setPc_pc, nextPc, dif_pos hsp]
  case call =>
    refine .call fun u hpush => ⟨rfl, ?_⟩
    obtain ⟨hsp, -⟩ := (s.push_eq_some _ u).1 hpush
    exact ((keepsAllBut_of_push hsp hpush).setPc _).mono (by rintro _ (rfl | rfl) <;> rfl)
  case jp | jpV0 => exact .next ⟨rfl, keeps.setPc _⟩
  case seImm | sneImm | seReg | sneReg => exact .next (completed_skipIf rfl)
  case skp => exact .skp fun k hk => completed_skipIf (by rw [eq_ofNat_of_keyIndex hk]; rfl)
  case sknp => exact .sknp fun k hk => completed_skipIf (by rw [eq_ofNat_of_keyIndex hk]; rfl)
  case ldImm | addImm | ldReg | orReg | andReg | xorReg | ldFromDelay => exact .next ⟨rfl, (keeps.writeV rfl _).setPc _⟩
  case addReg | subReg | shr | subn | shl => exact .next ⟨rfl, ((keeps.writeV rfl _).writeV rfl _).setPc _⟩
  case rnd => exact .next ⟨rfl, ((keeps.writeV rfl _).spendFree rfl).setPc _⟩
  case cls => exact .next ⟨rfl, ((keeps.setDisp (fun _ => rfl) _).setDirty rfl _).setPc _⟩
  case drw => exact .ite fun _ => ⟨rfl, (((keeps.setDisp (fun _ => rfl) _).setDirty rfl _).writeV rfl _).setPc _⟩
  case ldIndex | addIndex | ldGlyph =>
    exact .next ⟨rfl, ((keepsAllBut_setIndex s _).setPc _).mono (by rintro _ rfl; rfl)⟩
  case setDelay => exact .next ⟨rfl, ((keepsAllBut_setDt s _).setPc _).mono (by rintro _ rfl; rfl)⟩
  case setSound => exact .next ⟨rfl, ((keepsAllBut_setSt s _).setPc _).mono (by rintro _ rfl; rfl)⟩
  case waitKey => exact .next ⟨rfl, ((keepsAllBut_enterWait s _).setPc _).mono (by rintro _ (rfl | rfl) <;> rfl)⟩
  case storeBcd | storeRegs =>
    exact .ite fun _ => ⟨rfl, ((keepsAllBut_writeBlock s _).setPc _).mono (by rintro _ ⟨_, -, rfl⟩; rfl)⟩
  case loadRegs =>
    exact .ite fun _ => ⟨rfl, ((keepsAllBut_loadRegBlock s _).setPc _).mono (by rintro _ ⟨_, -, rfl⟩; rfl)⟩

/-- Settles O16: the program counter is part of what a completed instruction leaves. -/
theorem programCounterLaw : Obligations.ProgramCounterLaw := by
  intro i s t h hrun
  exact ((exec_raises_or_completes i s).of_next h hrun).pc

/-- Settles O17: so is the frame. -/
theorem onlyListedInstructionsWrite : Obligations.OnlyListedInstructionsWrite := by
  intro i s t c h hrun hc
  exact ((exec_raises_or_completes i s).of_next h hrun).frame c (by simp [hc])

/-- Settles O15: the fault of the fetch and that of the decoder are next states as well. -/
theorem runningStepAnswersNext : Obligations.RunningStepAnswersNext := by
  have hexec (i : Instr) (s : State) : ∃ t, exec i s = .next t := (exec_raises_or_completes i s).exists_next
  refine ⟨fun s hrun => ?_, hexec⟩
  rcases hfetch : s.fetch with _ | op
  · exact ⟨_, step_fetch_none hrun hfetch⟩
  · rcases hdec : decodeWord op with e | i
    · exact ⟨_, step_illegal hrun hfetch ((legalWord_eq_false_iff op).2 ⟨e, hdec⟩)⟩
    · rw [step_exec hrun hfetch hdec]
      exact hexec i s

/-! ## `VF` as a flag -/

theorem flagByte_eq_zero_or_one (c : Bool) : flagByte c = 0 ∨ flagByte c = 1 := by
  cases c
  · exact .inl rfl
  · exact .inr rfl

/-- R128: the flag is written last. -/
theorem readV_flagReg_writeFlag (s : State) (c : Bool) : (s.writeFlag c).readV 0xF = flagByte c :=
  (s.readV_writeFlag 0xF c).trans (if_pos rfl)

/-- R24: a completed instruction of the six leaves a flag in `VF`. -/
theorem exec_writesFlag {i : Instr} (h : i.writesFlag = true) (s : State) :
    RaisesOr (fun t => ∃ c, t.readV 0xF = flagByte c) s (exec i s) := by
  cases i
  case addReg | subReg | shr | subn | shl => exact .next ⟨_, readV_flagReg_writeFlag _ _⟩
  case drw => exact .ite fun _ => ⟨_, readV_flagReg_writeFlag _ _⟩
  all_goals cases h

/-- An instruction that completes and neither writes the flag nor names a register keeps that register. -/
theorem exec_keeps_unnamed_reg {i : Instr} {r : Nibble} (h : i.writesFlag = false) (hn : i.names r = false)
    (s : State) : RaisesOr (fun t => t.readV r = s.readV r) s (exec i s) := by
  cases i
  case addReg | subReg | shr | subn | shl | drw => cases h
  case ldImm | addImm | ldReg | orReg | andReg | xorReg | ldFromDelay | rnd =>
    exact .next ((s.readV_writeV _ r _).trans (if_neg (ne_of_beq_false hn).symm))
  case loadRegs x => exact .ite fun _ => (s.readV_loadRegBlock x r).trans (if_neg (of_decide_eq_false hn))
  all_goals exact (exec_raises_or_completes _ s).imp fun t ht => ht.frame (.reg r) Bool.false_ne_true

/-- Settles O18: the six write the flag last, and of the others only those that name `VF` can change it. -/
theorem flagWrittenBySixInstructions : Obligations.FlagWrittenBySixInstructions := by
  intro i s t h hrun
  constructor
  · intro hflag
    obtain ⟨c, hc⟩ := (exec_writesFlag hflag s).of_next h hrun
    rw [hc]
    exact flagByte_eq_zero_or_one c
  · intro hflag hnames
    exact (exec_keeps_unnamed_reg hflag hnames s).of_next h hrun

end Sys2Proof
end

section
/-! PROOFS. The host's transactions and Reset, said once each, and the invariant of the machine (10_state.md §4, §5, §8;
60_exceptions.md §4). -/

namespace Sys2Proof

open Machine

/-! ## What a host transaction does -/

/-- The next state of each host transaction on a core that is not faulted; Step and Reset apart (R253 to R258). -/
inductive HostEffect (s : State) : Transaction → State → Prop where
  | tickDelay : HostEffect s .tickDelay (s.setDt (countDown s.dt))
  | tickSound : HostEffect s .tickSound (s.setSt (countDown s.st))
  | keyPressRunning (k : Fin 16) (h : s.run = .running) : HostEffect s (.keyPress k.val) (s.writeKey k true)
  | keyPressWaiting (k : Fin 16) (h : s.run = .waitingForKey) :
      HostEffect s (.keyPress k.val) (((s.writeKey k true).writeV s.waitX (BitVec.ofNat 8 k.val)).setRun .running)
  | keyRelease (k : Fin 16) : HostEffect s (.keyRelease k.val) (s.writeKey k false)
  | clearDirty : HostEffect s .clearDirty (s.setDirty false)

section HostTransactions

variable {s t : State}

theorem unlessFaulted_eq_next_iff {r : Result} : s.unlessFaulted r = .next t ↔ s.run ≠ .faulted ∧ r = .next t := by
  by_cases h : s.run = .faulted
  · simp [State.unlessFaulted_of_eq h, h]
  · simp [State.unlessFaulted_of_ne h, h]

theorem keyPress_of_lt (s : State) (k : Fin 16) :
    keyPress k.val s = s.unlessFaulted (.next ((s.writeKey k true).completeWait k)) :=
  dif_pos k.isLt

theorem keyPress_of_running (h : s.run = .running) (k : Fin 16) : keyPress k.val s = .next (s.writeKey k true) := by
  rw [keyPress_of_lt, State.unlessFaulted_of_ne (by simp [h]), State.completeWait_running (s := s.writeKey k true) h]

theorem keyPress_of_waiting (h : s.run = .waitingForKey) (k : Fin 16) :
    keyPress k.val s = .next (((s.writeKey k true).writeV s.waitX (BitVec.ofNat 8 k.val)).setRun .running) := by
  rw [keyPress_of_lt, State.unlessFaulted_of_ne (by simp [h]), State.completeWait_waiting (s := s.writeKey k true) h,
    State.writeKey_waitX]

theorem keyPress_of_gt (s : State) {k : Nat} (hk : k > 15) : keyPress k s = .refused (.keyCodeOutOfRange k) :=
  dif_neg (by omega)

theorem keyRelease_of_gt (s : State) {k : Nat} (hk : k > 15) : keyRelease k s = .refused (.keyCodeOutOfRange k) :=
  dif_neg (by omega)

theorem exists_fin_or_gt (k : Nat) : (∃ j : Fin 16, j.val = k) ∨ k > 15 :=
  (Nat.lt_or_ge k 16).imp_left fun hk => ⟨⟨k, hk⟩, rfl⟩

/-- Everything a host transaction other than Reset can do that answers a next state. -/
theorem hostEffect_of_transact {a : Transaction} (h : transact a s = .next t) (hstep : a ≠ .step)
    (hreset : ∀ image, a ≠ .reset image) : HostEffect s a t := by
  cases a
  case step => exact absurd rfl hstep
  case reset image => exact absurd rfl (hreset image)
  case tickDelay => obtain ⟨-, ⟨⟩⟩ := unlessFaulted_eq_next_iff.1 h; exact .tickDelay
  case tickSound => obtain ⟨-, ⟨⟩⟩ := unlessFaulted_eq_next_iff.1 h; exact .tickSound
  case clearDirty => obtain ⟨-, ⟨⟩⟩ := unlessFaulted_eq_next_iff.1 h; exact .clearDirty
  case keyRelease k =>
    rcases exists_fin_or_gt k with ⟨k, rfl⟩ | hk
    · obtain ⟨-, ⟨⟩⟩ := unlessFaulted_eq_next_iff.1 ((keyRelease_of_lt s k).symm.trans h)
      exact .keyRelease k
    · cases (keyRelease_of_gt s hk).symm.trans h
  case keyPress k =>
    rcases exists_fin_or_gt k with ⟨k, rfl⟩ | hk
    · rcases hrun : s.run with _ | _ | _
      · cases (keyPress_of_running hrun k).symm.trans h
        exact .keyPressRunning k hrun
      · cases (keyPress_of_waiting hrun k).symm.trans h
        exact .keyPressWaiting k hrun
      · exact absurd hrun (unlessFaulted_eq_next_iff.1 ((keyPress_of_lt s k).symm.trans h)).1
    · cases (keyPress_of_gt s hk).symm.trans h

end HostTransactions

/-! ## Memory keeps its canonical form -/

theorem exec_keeps_memoryCanonical {s : State} (hm : s.memoryCanonical) (i : Instr) :
    RaisesOr State.memoryCanonical s (exec i s) := by
  cases i
  case ret =>
    refine .ret fun a u hpop => ?_
    obtain ⟨-, -, rfl⟩ := (s.pop_eq_some a u).1 hpop
    exact hm
  case call =>
    refine .call fun u hpush => ?_
    obtain ⟨-, rfl⟩ := (s.push_eq_some _ u).1 hpush
    exact hm
  case skp => exact .skp fun _ _ => hm
  case sknp => exact .sknp fun _ _ => hm
  case drw | loadRegs => exact .ite fun _ => hm
  case storeBcd x =>
    refine .ite fun hb => Memory.wf_writeBytes ?_ hm
    have hle := (blockInBounds_succ s 2).1 hb
    exact Nat.succ_le_succ hle
  case storeRegs x =>
    refine .ite fun hb => Memory.wf_writeBytes ?_ hm
    have hle := (blockInBounds_succ s x.toNat).1 hb
    rw [length_regBlock]
    exact Nat.succ_le_succ hle
  all_goals exact .next hm

/-! ## The run state, the program counter and the return addresses keep their bounds -/

/-- Every return address held is at most `0x1000` (R26). -/
def StackBounded (s : State) : Prop := ∀ j : Fin 16, j.val < s.sp.val → s.stack[j.val].toNat ≤ 0x1000

section Bounds

variable {s : State}

theorem exec_keeps_notFaulted (hrun : s.run ≠ .faulted) (i : Instr) :
    RaisesOr (fun t => t.run ≠ .faulted) s (exec i s) := by
  cases i
  case waitKey => exact .next nofun
  all_goals
    refine (exec_raises_or_completes _ s).imp fun t ht => ?_
    have hsame : t.run = s.run := ht.frame .run Bool.false_ne_true
    rwa [hsame]

variable (hpc : s.pc.toNat ≤ 4094)

include hpc

theorem toNat_npc_le : s.npc.toNat ≤ 0x1000 := by
  rw [s.npc_eq, BitVec.toNat_add, show (2 : Word16).toNat = 2 from rfl]
  omega

theorem toNat_skipTarget_le (c : Bool) : (skipTarget s c).toNat ≤ 0x10FE := by
  cases c
  case false => exact (toNat_npc_le hpc).trans (by decide)
  case true =>
    rw [skipTarget, if_pos rfl, BitVec.toNat_add, show (4 : Word16).toNat = 4 from rfl]
    omega

variable (hstack : StackBounded s)

include hstack

theorem exec_keeps_stackBounded (i : Instr) : RaisesOr StackBounded s (exec i s) := by
  cases i
  case ret =>
    refine .ret fun a u hpop => ?_
    obtain ⟨-, -, rfl⟩ := (s.pop_eq_some a u).1 hpop
    intro j hj
    exact hstack j (Nat.lt_of_lt_of_le hj (Nat.sub_le _ _))
  case call =>
    refine .call fun u hpush => ?_
    obtain ⟨hsp, rfl⟩ := (s.push_eq_some _ u).1 hpush
    intro j hj
    simp only [State.setPc_stack, State.setPc_sp, Vector.getElem_set] at hj ⊢
    split
    · exact toNat_npc_le hpc
    · exact hstack j (by omega)
  all_goals
    refine (exec_raises_or_completes _ s).imp fun t ht j hj => ?_
    have hsp : t.sp = s.sp := ht.frame .depth Bool.false_ne_true
    have hslot : t.stack[j.val] = s.stack[j.val] := ht.frame (.slot j) Bool.false_ne_true
    rw [hslot]
    exact hstack j (hsp ▸ hj)

/-- R26: no instruction leaves `pc` above `0x10FE`, the largest `V0 + nnn`. -/
theorem toNat_nextPc_le (i : Instr) : (nextPc s i).toNat ≤ 0x10FE := by
  cases i
  case ret =>
    rw [nextPc]
    split
    case isTrue hsp => exact (hstack ⟨s.sp.val - 1, by omega⟩ (Nat.sub_one_lt_of_lt hsp)).trans (by decide)
    case isFalse => exact Nat.zero_le _
  case jp nnn | call nnn =>
    have := nnn.isLt
    exact (toNat_zextAddr nnn).trans_le (by omega)
  case jpV0 nnn =>
    have := (s.readV 0).isLt
    have := nnn.isLt
    exact (toNat_zextByte_add_zextAddr (s.readV 0) nnn).trans_le (by omega)
  case seImm | sneImm | seReg | sneReg | skp | sknp => exact toNat_skipTarget_le hpc _
  all_goals exact toNat_skipTarget_le hpc false

end Bounds

/-! ## The invariant -/

theorem inv_enterFault (s : State) (f : Fault) : (s.enterFault f).Inv :=
  ⟨Memory.wf_ofBytes _, iff_of_true rfl rfl, fun h => absurd rfl h⟩

/-- An instruction fetched and decoded on a running core keeps the invariant. -/
theorem exec_keeps_inv {s t : State} {i : Instr} (hinv : s.Inv) (hrun : s.run = .running) (hpc : s.pc.toNat ≤ 4094)
    (h : exec i s = .next t) : t.Inv := by
  obtain ⟨hm, hfault, hbound⟩ := hinv
  have hne : s.run ≠ .faulted := by simp [hrun]
  have hstack : StackBounded s := (hbound hne).2
  have hall := ((exec_raises_or_completes i s).and (exec_keeps_memoryCanonical hm i)).and
    ((exec_keeps_notFaulted hne i).and (exec_keeps_stackBounded hpc hstack i))
  rcases hall.cases_next h with ⟨f, rfl⟩ | ⟨⟨hdone, hm'⟩, hne', hstack'⟩
  · exact inv_enterFault s f
  · have hrec : t.fault = s.fault := hdone.frame .fault Bool.false_ne_true
    refine ⟨hm', iff_of_false hne' ?_, fun _ => ⟨?_, hstack'⟩⟩
    · rw [hrec]
      exact mt hfault.2 hne
    · rw [hdone.pc]
      exact toNat_nextPc_le hpc hstack i

/-- Settles O58: a Step changes nothing, takes a fault, or executes an instruction it fetched below 4095. -/
theorem stepKeepsInvariant : Obligations.StepKeepsInvariant := by
  intro s t hinv h
  rcases step_cases h with ⟨-, rfl⟩ | ⟨-, -, rfl⟩ | ⟨-, op, e, -, -, rfl⟩ | ⟨hrun, op, i, hfetch, -, hexec⟩
  · exact hinv
  · exact inv_enterFault s _
  · exact inv_enterFault s _
  · exact exec_keeps_inv hinv hrun (State.pc_le_of_fetch hfetch) hexec

/-- The invariant is about memory, the program counter, the stack, the record and being faulted alone. -/
theorem inv_congr {s t : State} (h : s.Inv) (hmem : t.mem = s.mem) (hrun : t.run = .faulted ↔ s.run = .faulted)
    (hfault : t.fault = s.fault) (hpc : t.pc = s.pc) (hsp : t.sp = s.sp) (hstack : t.stack = s.stack) : t.Inv := by
  simpa only [State.Inv, State.memoryCanonical, State.faultRecorded, State.pcBounded, ne_eq, hmem, hrun, hfault, hpc,
    hsp, hstack] using h

theorem hostEffect_keeps_inv {s t : State} {a : Transaction} (hinv : s.Inv) (h : HostEffect s a t) : t.Inv := by
  cases h
  case keyPressWaiting k hrun => exact inv_congr hinv rfl (iff_of_false nofun (by simp [hrun])) rfl rfl rfl rfl
  all_goals exact inv_congr hinv rfl Iff.rfl rfl rfl rfl rfl

/-- Settles O57: after reset memory lists nothing, no fault is recorded and no return address is held. -/
theorem invariantAtReset : Obligations.InvariantAtReset := by
  refine ⟨rfl, iff_of_false nofun nofun, fun _ => ⟨?_, fun j hj => absurd hj (Nat.not_lt_zero _)⟩⟩
  decide

/-! ## Reset -/

theorem resetMemory_wf {entry : Nat} (font : Vector Byte 80) {image : List Byte}
    (h : entry + image.length ≤ memSize) : (resetMemory entry font image).wf = true := by
  have hfont : 0 + font.toList.length ≤ memSize := by rw [Vector.length_toList]; decide
  exact Memory.wf_writeBytes h (Memory.wf_writeBytes hfont rfl)

/-- The state Reset builds: the reset state with memory, the program counter and the index of free values replaced. -/
def builtState (entry : Nat) (font : Vector Byte 80) (image : List Byte) (free : Nat) : State :=
  { State.reset with mem := resetMemory entry font image, pc := BitVec.ofNat 16 entry, free := free }

theorem resetWith_of_fits {entry : Nat} (font : Vector Byte 80) {image : List Byte} (free : Nat)
    (h : 0x050 ≤ entry ∧ entry ≤ 0xFFF ∧ entry + image.length ≤ 4096) :
    State.resetWith entry font image free = .next (builtState entry font image free) :=
  if_pos ((resetAllowed_eq_true entry image.length).2 h)

theorem resetWith_of_not_fits {entry : Nat} (font : Vector Byte 80) {image : List Byte} (free : Nat)
    (h : ¬ (0x050 ≤ entry ∧ entry ≤ 0xFFF ∧ entry + image.length ≤ 4096)) :
    State.resetWith entry font image free = .refused (.resetRefused entry image.length) :=
  if_neg (mt (resetAllowed_eq_true entry image.length).1 h)

/-- A Reset with the parameters of `Config` answers what it builds, or is refused. -/
theorem resetCore_eq_next {image : List Byte} {s t : State} (h : resetCore image s = .next t) :
    Config.entry + image.length ≤ 4096 ∧ t = builtState Config.entry Config.font image s.free := by
  by_cases hfits : 0x050 ≤ Config.entry ∧ Config.entry ≤ 0xFFF ∧ Config.entry + image.length ≤ 4096
  · cases (resetWith_of_fits Config.font s.free hfits).symm.trans h
    exact ⟨hfits.2.2, rfl⟩
  · cases (resetWith_of_not_fits Config.font s.free hfits).symm.trans h

theorem reset_keeps_inv {image : List Byte} {s t : State} (h : resetCore image s = .next t) : t.Inv := by
  obtain ⟨hfits, rfl⟩ := resetCore_eq_next h
  obtain ⟨-, hfault, hbound⟩ := invariantAtReset
  exact ⟨resetMemory_wf Config.font hfits, hfault, hbound⟩

/-! ## Every sequence of transactions -/

theorem transact_keeps_inv {s t : State} {a : Transaction} (hinv : s.Inv) (h : transact a s = .next t) : t.Inv := by
  by_cases hstep : a = .step
  · subst hstep
    exact stepKeepsInvariant s t hinv h
  · by_cases hreset : ∃ image, a = .reset image
    · obtain ⟨image, rfl⟩ := hreset
      exact reset_keeps_inv h
    · exact hostEffect_keeps_inv hinv (hostEffect_of_transact h hstep fun image e => hreset ⟨image, e⟩)

/-- Settles O59, by induction on the transactions: one that succeeds keeps the invariant, another does nothing. -/
theorem transactionsKeepInvariant : Obligations.TransactionsKeepInvariant := by
  intro as
  induction as with
  | nil => exact fun _ hinv => hinv
  | cons a rest ih =>
    intro s hinv
    rw [runTransactions]
    split
    case h_1 t h => exact ih t (transact_keeps_inv hinv h)
    case h_2 | h_3 => exact ih s hinv

/-- Settles O56: the default font lists no byte, and `0x200` is the reset state's own program counter. -/
theorem resetStateIsDefaultReset : Obligations.ResetStateIsDefaultReset := by
  have hfits : 0x050 ≤ Config.entry ∧ Config.entry ≤ 0xFFF ∧ Config.entry + ([] : List Byte).length ≤ 4096 := by decide
  unfold Obligations.ResetStateIsDefaultReset
  rw [resetWith_of_fits Config.font 0 hfits, builtState, resetMemory_default]
  rfl

/-- R280: the image lies at `ENTRY`, the font at 0, and every other byte is zero. -/
theorem read_resetMemory (entry : Nat) (font : Vector Byte 80) (image : List Byte) (a : Nat) :
    (resetMemory entry font image).read a =
      if h : entry ≤ a ∧ a < entry + image.length then image[a - entry]'(by omega)
      else if h : a < 80 then font[a] else 0 := by
  have hlen : font.toList.length = 80 := Vector.length_toList
  simp only [resetMemory, Memory.read_writeBytes, hlen, Nat.zero_le, true_and, Nat.zero_add, Nat.sub_zero,
    Vector.getElem_toList, Memory.read]
  by_cases ha : a < 80
  · simp only [ha, dite_true]
  · simp only [ha, dite_false, Memory.unlisted]

/-- Settles O55: the built state is the reset state but for memory and the program counter. -/
theorem resetBuildsState : Obligations.ResetBuildsState := by
  intro entry font image n
  refine ⟨fun hfits => ⟨_, resetWith_of_fits font n hfits, fun a ha => ?_, fun j hj => ?_, fun a hlo hhi hout => ?_,
    fun r => Vector.getElem_replicate _, rfl, Nat.mod_eq_of_lt (by omega), rfl, fun j => Vector.getElem_replicate _,
    rfl, rfl, Display.pixel_blank, rfl, fun k => Vector.getElem_replicate _, rfl, rfl, rfl, rfl⟩,
    resetWith_of_not_fits font n⟩
  · have hbelow : ¬ (entry ≤ a ∧ a < entry + image.length) := by omega
    exact (read_resetMemory entry font image a).trans ((dif_neg hbelow).trans (dif_pos ha))
  · have hin : entry ≤ entry + j ∧ entry + j < entry + image.length := by omega
    refine (read_resetMemory entry font image (entry + j)).trans ((dif_pos hin).trans ?_)
    simp only [Nat.add_sub_cancel_left]
  · have himage : ¬ (entry ≤ a ∧ a < entry + image.length) := by omega
    exact (read_resetMemory entry font image a).trans ((dif_neg himage).trans (dif_neg (by omega)))

end Sys2Proof
end

section
/-! PROOFS. A Step of a running core: the instruction it executes, the opcode it returns, `OutOfBounds`, a call returned
from and the end of a run (40_step_engine.md §1; 60_exceptions.md §1; 41_control_flow.md §2;
70_reset_and_hazards.md §3). -/

namespace Sys2Proof

open Machine

/-! ## The instruction executed -/

/-- Settles O7: nine closed words, each decoded. -/
theorem vectorWordsDecode : Obligations.VectorWordsDecode := 
  ⟨rfl, rfl, rfl, rfl, rfl, rfl, rfl, rfl, rfl⟩

/-- Settles O8: where the two bytes are in memory the fetch is their word. -/
theorem stepRunsDecodedInstruction : Obligations.StepRunsDecodedInstruction := by
  intro s i hrun hpc hdec
  exact step_exec hrun (s.fetch_some hpc) hdec

/-- A running core whose fetched word is the encoding of an instruction executes it. -/
theorem step_of_fetch_encode {s : State} {i : Instr} (hrun : s.run = .running) (hfetch : s.fetch = some (encode i)) :
    step s = exec i s :=
  step_exec hrun hfetch (decodeWord_encode i)

theorem tableBytes_encode (i : Instr) :
    tableBytes 16 (encode i).toNat = [(encode i).extractLsb' 8 8, (encode i).extractLsb' 0 8] := by
  have hlt := (encode i).isLt
  have hhi : BitVec.ofNat 8 ((encode i).toNat % 2 ^ 16 / 256) = (encode i).extractLsb' 8 8 := by
    apply BitVec.eq_of_toNat_eq
    rw [BitVec.toNat_ofNat, BitVec.extractLsb'_toNat, Nat.shiftRight_eq_div_pow, Nat.mod_eq_of_lt hlt]
  have hlo : BitVec.ofNat 8 ((encode i).toNat % 2 ^ 16) = (encode i).extractLsb' 0 8 := by
    apply BitVec.eq_of_toNat_eq
    rw [BitVec.toNat_ofNat, BitVec.extractLsb'_toNat, Nat.shiftRight_zero, Nat.mod_eq_of_lt hlt]
  rw [tableBytes, hhi, hlo]

theorem fetch_withFetchWord_encode {s : State} (hpc : s.pc.toNat ≤ 4094) (i : Instr) :
    (s.withFetchWord 16 (encode i).toNat).fetch = some (encode i) := by
  rw [s.withFetchWord_eq _ hpc, tableBytes_encode, State.fetch_some _ (by exact hpc), State.setMem_mem, State.setMem_pc,
    Memory.read_writeBytes, Memory.read_writeBytes, dif_pos (by simp), dif_pos (by simp)]
  simp [opcodeOfBytes_extractLsb']

/-- Settles O9: the two bytes placed are read back as the encoding, which decodes to the instruction. -/
theorem stepRunsPlacedInstruction : Obligations.StepRunsPlacedInstruction := by
  intro s i hrun hpc
  refine step_of_fetch_encode ?_ (fetch_withFetchWord_encode hpc i)
  rw [s.withFetchWord_eq _ hpc]
  exact hrun

/-- Settles O14: the run state is looked at before anything else. -/
theorem stepGatedByRunState : Obligations.StepGatedByRunState := fun _ => ⟨step_waiting, step_faulted⟩

/-! ## The opcode returned -/

theorem executedOpcode_of_not_running {s : State} (h : s.run ≠ .running) : executedOpcode s = none := by
  rcases hrun : s.run with _ | _ | _
  · exact absurd hrun h
  all_goals simp only [executedOpcode, hrun]

theorem executedOpcode_of_step {s t : State} (hrun : s.run = .running) (h : step s = .next t) :
    executedOpcode s = if t.run = .faulted then none else s.fetch := by
  simp only [executedOpcode, hrun, h]

/-- Settles O19: the two ways a running Step can end select the word or none. -/
theorem stepReturnsExecutedOpcode : Obligations.StepReturnsExecutedOpcode := by
  intro s
  refine ⟨executedOpcode_of_not_running, fun hrun t h => ?_⟩
  rw [executedOpcode_of_step hrun h]
  exact ⟨fun hf => if_pos hf, fun hf => if_neg hf⟩

/-! ## `OutOfBounds` -/

theorem Instr.faults_outOfBounds_iff {i : Instr} {s : State} {op : Option Word16} {pc0 : Word16} :
    i.Faults s (.outOfBounds op pc0) ↔ ReachesOutOfBounds s i ∧ op = some (encode i) ∧ pc0 = s.pc := by
  cases i
  case ret | call => simp [Instr.Faults, ReachesOutOfBounds]
  all_goals simp [Instr.Faults]

theorem fetch_eq_none_iff (s : State) : s.fetch = none ↔ s.pc.toNat > 4094 := by
  refine ⟨fun h => ?_, s.fetch_none⟩
  by_contra hpc
  rw [s.fetch_some (by omega)] at h
  cases h

/-- Settles O12: the fault of the fetch has no opcode, and that of an instruction has its encoding, the word fetched. -/
theorem outOfBoundsExactCases : Obligations.OutOfBoundsExactCases := by
  intro s op pc0 hrun
  rw [raises_step_iff hrun, fetch_eq_none_iff]
  constructor
  · rintro (⟨hpc, ⟨⟩⟩ | ⟨_, -, -, ⟨⟩⟩ | ⟨w, i, hfetch, hdec, hfault⟩)
    · exact ⟨rfl, .inl ⟨rfl, hpc⟩⟩
    · obtain ⟨hout, hop, hpc⟩ := Instr.faults_outOfBounds_iff.1 hfault
      rw [encode_of_decodeWord hdec] at hop
      exact ⟨hpc, .inr ⟨w, i, hfetch, hdec, hop, hout⟩⟩
  · rintro ⟨rfl, ⟨rfl, hpc⟩ | ⟨w, i, hfetch, hdec, rfl, hout⟩⟩
    · exact .inl ⟨hpc, rfl⟩
    · have hop : some w = some (encode i) := congrArg some (encode_of_decodeWord hdec).symm
      exact .inr (.inr ⟨w, i, hfetch, hdec, Instr.faults_outOfBounds_iff.2 ⟨hout, hop, rfl⟩⟩)

/-! ## A call and its return -/

theorem fetch_eq_ret {s : State} {a : Nat} (hpc : s.pc.toNat = a) (ha : a ≤ 4094) (hhi : s.mem.read a = 0x00)
    (hlo : s.mem.read (a + 1) = 0xEE) : s.fetch = some (encode .ret) := by
  rw [s.fetch_some (hpc ▸ ha), hpc, hhi, hlo]
  rfl

/-- Settles O24: the return pops the address the call pushed, and the live slots lie below it. -/
theorem callThenReturnRoundTrip : Obligations.CallThenReturnRoundTrip := by
  intro nnn s hrun hpc hfetch hsp hnnn hhi hlo
  obtain ⟨t, hcall, hslot, htsp, htpc, htframe⟩ := (callPushesOrOverflows nnn s).1 hsp
  obtain ⟨u, hret, husp, hupc, huframe⟩ := (returnPopsOrUnderflows t).1 (by omega)
  have htrun : t.run = s.run := htframe .run (not_or.2 ⟨nofun, nofun⟩)
  have htbyte (a : Nat) : t.mem.read a = s.mem.read a := htframe (.byte a) (not_or.2 ⟨nofun, nofun⟩)
  have htfetch : t.fetch = some (encode .ret) :=
    fetch_eq_ret htpc hnnn ((htbyte _).trans hhi) ((htbyte _).trans hlo)
  have hcallStep : step s = .next t := (step_of_fetch_encode hrun hfetch).trans hcall
  have hretStep : step t = .next u := (step_of_fetch_encode (htrun.trans hrun) htfetch).trans hret
  refine ⟨t, u, hcallStep, htpc, hretStep, ?_, Fin.ext (by omega), fun j hj => ?_, fun r => ?_, ?_, fun a => ?_⟩
  · simp only [htsp, Nat.add_sub_cancel] at hupc
    exact hupc.trans hslot
  · have hne : j ≠ ⟨s.sp.val, hsp⟩ := fun e => by simp [e] at hj
    exact (huframe (.slot j) nofun).trans (htframe (.slot j) (not_or.2 ⟨nofun, fun e => hne (Component.slot.inj e)⟩))
  · exact (huframe (.reg r) nofun).trans (htframe (.reg r) (not_or.2 ⟨nofun, nofun⟩))
  · exact (huframe .index nofun).trans (htframe .index (not_or.2 ⟨nofun, nofun⟩))
  · exact (huframe (.byte a) nofun).trans (htbyte a)

/-! ## The end of a run -/

/-- R287: the word `0x1000 + pc` is the jump to `pc`. -/
theorem encode_jp_self {a : Word16} (h : a.toNat ≤ 4094) : encode (.jp (a.setWidth 12)) = 0x1000 + a := by
  have hlo : (a.setWidth 12).toNat = a.toNat := by rw [BitVec.toNat_setWidth]; omega
  apply BitVec.eq_of_toNat_eq
  rw [encode, toNat_formatAddr, hlo, BitVec.toNat_add, show (0x1000 : Word16).toNat = 4096 from rfl,
    show (0x1 : Nibble).toNat = 1 from rfl]
  omega

/-- Settles O25: the jump writes to `pc` the value it has. -/
theorem endedRunStays : Obligations.EndedRunStays := by
  rintro s ⟨hrun, hfetch⟩
  have hpc : s.pc.toNat ≤ 4094 := State.pc_le_of_fetch hfetch
  have hself : zextAddr (s.pc.setWidth 12) = s.pc := by
    apply BitVec.eq_of_toNat_eq
    rw [toNat_zextAddr, BitVec.toNat_setWidth]
    omega
  rw [← encode_jp_self hpc] at hfetch
  calc step s = .next (s.setPc (zextAddr (s.pc.setWidth 12))) := step_of_fetch_encode hrun hfetch
    _ = .next s := by rw [hself]; rfl

end Sys2Proof
end

section
/-! PROOFS. The arithmetic with a flag, the random byte, the index register added to, and a store seen by the next fetch
(42_load_arith_logic.md R166 to R170, R183; 43_index_memory.md R191; 20_memory.md R75). -/

namespace Sys2Proof

open Machine

/-! ## A result and its flag -/

theorem flagByte_decide (p : Prop) [Decidable p] : flagByte (decide p) = if p then 1 else 0 := by
  by_cases h : p <;> simp [flagByte, h]

theorem toNat_flagByte (c : Bool) : (flagByte c).toNat = c.toNat := by
  cases c <;> rfl

/-- What an instruction that writes a result to `Vx`, then its flag, and advances does. -/
theorem writeResultFlag_completes {i : Instr} {s : State} {x : Nibble} {b : Byte} {c : Bool}
    (h : exec i s = .next (s.writeResultFlag x b c).advance) :
    ∃ t, exec i s = .next t ∧ (x ≠ 0xF → t.readV x = b) ∧ t.readV 0xF = flagByte c ∧ t.pc = s.pc + 2 ∧
      KeepsAllBut (either (only (.reg x)) (only (.reg 0xF))) s t := by
  have hres (hx : x ≠ 0xF) : (s.writeResultFlag x b c).readV x = b :=
    (s.readV_writeResultFlag x x b c).trans ((if_neg hx).trans (if_pos rfl))
  exact ⟨_, h, hres, readV_flagReg_writeFlag _ c, rfl,
    (((KeepsAllBut.refl _ s).writeV (.inl rfl) b).writeV (.inr rfl) _).setPc _⟩

/-- Settles O28: the sum of two bytes wraps modulo 256, and its carry is the flag. -/
theorem addRegistersWithCarry : Obligations.AddRegistersWithCarry := by
  intro x y s
  obtain ⟨t, hexec, hres, hflag, hpc, hframe⟩ : ∃ t, exec (.addReg x y) s = .next t ∧ _ := writeResultFlag_completes rfl
  exact ⟨t, hexec, fun hx => by rw [hres hx, BitVec.toNat_add], hflag.trans (flagByte_decide _), hpc, hframe⟩

theorem toNat_sub_eq_emod (a b : Byte) : ((a - b).toNat : Int) = (a.toNat - b.toNat : Int) % 256 := by
  have := a.isLt
  have := b.isLt
  rw [BitVec.toNat_sub]
  omega

/-- What a subtraction of registers does. -/
theorem subtraction_completes {i : Instr} {s : State} {x : Nibble} {a b : Byte}
    (h : exec i s = .next (s.writeResultFlag x (a - b) (noBorrow a b)).advance) :
    ∃ t, exec i s = .next t ∧ (x ≠ 0xF → ((t.readV x).toNat : Int) = (a.toNat - b.toNat : Int) % 256) ∧
      t.readV 0xF = (if a.toNat ≥ b.toNat then 1 else 0) ∧ t.pc = s.pc + 2 ∧
      KeepsAllBut (either (only (.reg x)) (only (.reg 0xF))) s t := by
  obtain ⟨t, hexec, hres, hflag, hpc, hframe⟩ := writeResultFlag_completes h
  exact ⟨t, hexec, fun hx => by rw [hres hx, toNat_sub_eq_emod], hflag.trans (flagByte_decide _), hpc, hframe⟩

/-- Settles O29: the two are one subtraction with its operands exchanged. -/
theorem subtractRegistersNoBorrow : Obligations.SubtractRegistersNoBorrow :=
  fun _ _ _ => ⟨subtraction_completes rfl, subtraction_completes rfl⟩

theorem toNat_lowBit (b : Byte) : (lowBit b).toNat = b.toNat % 2 := by
  rw [lowBit, BitVec.getLsbD, Nat.toNat_testBit]
  simp

theorem toNat_highBit (b : Byte) : (highBit b).toNat = b.toNat / 128 := by
  have := b.isLt
  rw [highBit, BitVec.getLsbD, Nat.toNat_testBit]
  omega

/-- Settles O30: a shift by one halves or doubles the byte, and its flag is the bit shifted out. -/
theorem shiftsByOne : Obligations.ShiftsByOne := by
  intro x y s
  constructor
  · obtain ⟨t, hexec, hres, hflag, hpc, hframe⟩ : ∃ t, exec (.shr x y) s = .next t ∧ _ := writeResultFlag_completes rfl
    refine ⟨t, hexec, fun hx => ?_, ?_, hpc, hframe⟩
    · rw [hres hx, BitVec.toNat_ushiftRight, Nat.shiftRight_eq_div_pow, Nat.pow_one]
    · rw [hflag, toNat_flagByte, toNat_lowBit]
  · obtain ⟨t, hexec, hres, hflag, hpc, hframe⟩ : ∃ t, exec (.shl x y) s = .next t ∧ _ := writeResultFlag_completes rfl
    refine ⟨t, hexec, fun hx => ?_, ?_, hpc, hframe⟩
    · rw [hres hx, BitVec.toNat_shiftLeft, Nat.shiftLeft_eq, Nat.pow_one]
    · rw [hflag, toNat_flagByte, toNat_highBit]

/-! ## The random byte -/

/-- Settles O31: the draw masked is written to `Vx`, and the next draw is another. -/
theorem randomByteMasked : Obligations.RandomByteMasked := by
  intro x nn s
  have hread : (s.writeV x (s.draw &&& nn)).readV x = Config.draw s.free &&& nn :=
    (s.readV_writeV x x _).trans (if_pos rfl)
  have hmask : Config.draw s.free &&& nn &&& ~~~ nn = 0 := by
    rw [BitVec.and_assoc, BitVec.and_not_self]
    exact BitVec.and_zero
  exact ⟨_, rfl, hread, (congrArg (· &&& ~~~ nn) hread).trans hmask, rfl, rfl,
    (((KeepsAllBut.refl _ s).writeV (.inl rfl) _).spendFree (.inr rfl)).setPc _⟩

/-! ## The index register -/

/-- Settles O33: a sum of 16-bit words wraps modulo 65536, and `I` alone is written. -/
theorem indexPlusRegister : Obligations.IndexPlusRegister := by
  intro x s
  exact setIndex_completes rfl (by rw [BitVec.toNat_add, toNat_zextByte])

/-! ## A store and the next fetch -/

/-- Settles O37: the two bytes the next fetch reads are registers `a` and `b` of the block stored. -/
theorem storeSeenByNextFetch : Obligations.StoreSeenByNextFetch := by
  intro x a b s t h _ hin hab hbx hpc
  obtain ⟨u, hexec, hread, -⟩ := (storeRegisterBlock x s).1 hin
  cases hexec.symm.trans h
  have hhi : t.mem.read t.pc.toNat = s.readV a := by rw [hpc]; exact hread a (by omega)
  have hlo : t.mem.read (t.pc.toNat + 1) = s.readV b := by rw [hpc, Nat.add_assoc, hab]; exact hread b hbx
  rw [t.fetch_some (by omega), hhi, hlo]

end Sys2Proof
end

section
/-! PROOFS. Drawing a sprite, and the flat view of the display (44_display.md R211, R213; 60_exceptions.md R257). -/

namespace Sys2Proof

open Machine

/-! ## What a sprite covers -/

/-- The pixels the drawing of `DXYN` covers are those R211 names. -/
theorem spriteCovers_iff (s : State) (x y n : Nibble) (p : Pixel) :
    spriteCovers (s.readV x) (s.readV y) (s.readBlock n.toNat) p ↔ SpriteCovers s x y n p := by
  have hplace (r c : Nat) : spritePlace (s.readV x) (s.readV y) r c = p ↔
      p.x.val = ((s.readV x).toNat + c) % 64 ∧ p.y.val = ((s.readV y).toNat + r) % 32 := by
    obtain ⟨px, py⟩ := p
    simp only [spritePlace, Pixel.mk.injEq, Fin.ext_iff, Fin.val_ofNat, eq_comm]
  simp only [spriteCovers, SpriteCovers, hplace, State.readBlock, Memory.length_readBytes, Memory.getElem_readBytes,
    exists_prop, exists_and_left]

/-! ## What is drawn -/

section Drawn

variable (s : State) (x y n : Nibble)

theorem length_readBlock_le : (s.readBlock n.toNat).length ≤ 32 := by
  have := n.isLt
  rw [State.readBlock, Memory.length_readBytes]
  omega

theorem pixel_drawn_eq_true_iff (p : Pixel) : Display.pixel (s.drawn x y n).disp p = true ↔
    (Display.pixel s.disp p = true ∧ ¬ SpriteCovers s x y n p) ∨
    (Display.pixel s.disp p = false ∧ SpriteCovers s x y n p) := by
  rw [State.drawn, drawSprite_pixel _ _ _ _ (length_readBlock_le s n), spriteCovers_iff]

variable {s x y n} {p : Pixel}

theorem pixel_drawn_of_covers (h : SpriteCovers s x y n p) :
    Display.pixel (s.drawn x y n).disp p = !Display.pixel s.disp p := by
  rw [Bool.eq_iff_iff, pixel_drawn_eq_true_iff]
  simp [h]

theorem pixel_drawn_of_not_covers (h : ¬ SpriteCovers s x y n p) :
    Display.pixel (s.drawn x y n).disp p = Display.pixel s.disp p := by
  rw [Bool.eq_iff_iff, pixel_drawn_eq_true_iff]
  simp [h]

variable (s x y n)

/-- A pixel changes exactly where the sprite covers it. -/
theorem pixel_drawn_ne_iff (p : Pixel) :
    Display.pixel (s.drawn x y n).disp p ≠ Display.pixel s.disp p ↔ SpriteCovers s x y n p := by
  refine ⟨not_imp_comm.1 pixel_drawn_of_not_covers, fun h => ?_⟩
  rw [pixel_drawn_of_covers h]
  exact Bool.not_ne_self _

/-- `VF` of a drawing: a set pixel became unset. -/
theorem drawn_collision_iff : (s.drawn x y n).collision = true ↔
    ∃ p, Display.pixel s.disp p = true ∧ Display.pixel (s.drawn x y n).disp p = false := by
  rw [State.drawn, drawSprite_collision _ _ _ _ (length_readBlock_le s n)]
  refine exists_congr fun p => ?_
  rw [spriteCovers_iff, ← pixel_drawn_ne_iff, State.drawn]
  cases Display.pixel s.disp p <;> simp

theorem drawn_changed_iff : (s.drawn x y n).changed = true ↔
    ∃ p, Display.pixel (s.drawn x y n).disp p ≠ Display.pixel s.disp p := by
  rw [State.drawn, drawSprite_changed _ _ _ _ (length_readBlock_le s n)]
  refine exists_congr fun p => ?_
  rw [spriteCovers_iff, ← pixel_drawn_ne_iff, State.drawn]

theorem encode_drw_eq_ofNat :
    encode (.drw x y n) = BitVec.ofNat 16 (0xD000 + x.toNat * 256 + y.toNat * 16 + n.toNat) := by
  have := x.isLt
  have := y.isLt
  have := n.isLt
  apply BitVec.eq_of_toNat_eq
  rw [encode, toNat_formatRr, BitVec.toNat_ofNat, show (0xD : Nibble).toNat = 13 from rfl]
  omega

end Drawn

/-! ## The instruction -/

/-- Settles O39: within the bounds the drawing gives every component, and beyond them the check fails. -/
theorem drawSpriteXorsAndDetectsCollision : Obligations.DrawSpriteXorsAndDetectsCollision := by
  intro x y n s
  constructor
  · intro hin
    have hb : s.blockInBounds n.toNat = true := (inBounds_eq_true _ _).2 (by omega)
    have hread : State.readV _ 0xF = flagByte (s.drawn x y n).collision := readV_flagReg_writeFlag
      ((s.setDisp (s.drawn x y n).disp).setDirty (s.dirty || (s.drawn x y n).changed)) (s.drawn x y n).collision
    have hdisp : KeepsAllBut (either (either allPixels (only .dirty)) (only (.reg 0xF))) s
        (s.setDisp (s.drawn x y n).disp) := (KeepsAllBut.refl _ s).setDisp (fun q => .inl (.inl ⟨q, rfl⟩)) _
    refine ⟨_, if_pos hb, fun p => pixel_drawn_of_covers, fun p => pixel_drawn_of_not_covers, fun h => ?_, fun h => ?_,
      fun h => ?_, fun h => ?_, rfl, ((hdisp.setDirty (.inl (.inr rfl)) _).writeV (.inr rfl) _).setPc _⟩
    · exact hread.trans (congrArg flagByte ((drawn_collision_iff s x y n).2 h))
    · exact hread.trans (congrArg flagByte (Bool.eq_false_iff.2 (mt (drawn_collision_iff s x y n).1 h)))
    · have hchanged := (drawn_changed_iff s x y n).2 h
      exact (congrArg (s.dirty || ·) hchanged).trans (Bool.or_true _)
    · have hchanged := Bool.eq_false_iff.2 (mt (drawn_changed_iff s x y n).1 h)
      exact (congrArg (s.dirty || ·) hchanged).trans (Bool.or_false _)
  · intro hout
    have hb : s.blockInBounds n.toNat = false := (blockInBounds_eq_false_iff s n.toNat).2 hout
    have hexec : exec (.drw x y n) s = raise (.outOfBounds (some (encode (.drw x y n))) s.pc) s :=
      if_neg (Bool.eq_false_iff.1 hb)
    rw [hexec, encode_drw_eq_ofNat]
    exact raises_raise _ s

/-! ## Drawing twice -/

/-- A completed drawing was within the bounds. -/
theorem inBounds_of_drw_completes {x y n : Nibble} {s t : State} (h : exec (.drw x y n) s = .next t)
    (hrun : t.run ≠ .faulted) : n.toNat = 0 ∨ s.i.toNat + n.toNat - 1 ≤ 4095 := by
  by_contra hout
  obtain ⟨u, hexec, hfaulted, -⟩ := (drawSpriteXorsAndDetectsCollision x y n s).2 (by omega)
  cases hexec.symm.trans h
  exact hrun hfaulted

/-- The same bytes at the same place modulo the screen cover the same pixels. -/
theorem spriteCovers_congr {x y x' y' n : Nibble} {s s' : State}
    (hx : (s'.readV x').toNat % 64 = (s.readV x).toNat % 64) (hy : (s'.readV y').toNat % 32 = (s.readV y).toNat % 32)
    (hrows : ∀ r < n.toNat, s'.mem.read (s'.i.toNat + r) = s.mem.read (s.i.toNat + r)) (p : Pixel) :
    SpriteCovers s' x' y' n p ↔ SpriteCovers s x y n p := by
  refine exists_congr fun r => exists_congr fun c => and_congr_right fun hr => ?_
  rw [hrows r hr, Nat.add_mod (s'.readV x').toNat, hx, ← Nat.add_mod, Nat.add_mod (s'.readV y').toNat, hy,
    ← Nat.add_mod]

/-- Settles O40: the second drawing negates every pixel the first one did, and collides where the first one set one. -/
theorem drawingTwiceRestoresDisplay : Obligations.DrawingTwiceRestoresDisplay := by
  intro x y x' y' n s t s' t' h hrun h' hrun' hdisp hx hy hrows
  have hcov (p : Pixel) : SpriteCovers s' x' y' n p ↔ SpriteCovers s x y n p := spriteCovers_congr hx hy hrows p
  obtain ⟨u, hexec, hflip, hkeep, -⟩ :=
    (drawSpriteXorsAndDetectsCollision x y n s).1 (inBounds_of_drw_completes h hrun)
  cases hexec.symm.trans h
  obtain ⟨u', hexec', hflip', hkeep', hone, hzero, -⟩ :=
    (drawSpriteXorsAndDetectsCollision x' y' n s').1 (inBounds_of_drw_completes h' hrun')
  cases hexec'.symm.trans h'
  simp only [hcov, hdisp] at hflip' hkeep' hone hzero
  have hback : t'.disp = s.disp := by
    apply Display.ext_pixel
    intro p
    by_cases hp : SpriteCovers s x y n p
    · rw [hflip' p hp, hflip p hp, Bool.not_not]
    · rw [hkeep' p hp, hkeep p hp]
  have hset (p : Pixel) : Display.pixel t.disp p = true ∧ Display.pixel t'.disp p = false ↔
      SpriteCovers s x y n p ∧ Display.pixel s.disp p = false := by
    rw [hback]
    by_cases hp : SpriteCovers s x y n p
    · simp [hflip p hp, hp]
    · simp [hkeep p hp, hp]
  simp only [hset] at hone hzero
  refine ⟨hback, fun hvf => ?_, hone⟩
  by_contra hnone
  exact absurd (hvf.symm.trans (hzero hnone)) (by decide)

/-! ## The flat view -/

/-- Settles O41: the row of element `y * 64 + x` is its quotient by 64, and the column its remainder. -/
theorem displayViewIsRowMajor : Obligations.DisplayViewIsRowMajor := by
  rintro s ⟨x, y⟩
  have hx : Fin.ofNat 64 (y.val * 64 + x.val) = x := Fin.ext (by rw [Fin.val_ofNat]; omega)
  have hy : Fin.ofNat 32 ((y.val * 64 + x.val) / 64) = y := Fin.ext (by rw [Fin.val_ofNat]; omega)
  constructor
  · rw [readDisplay, List.length_map, List.length_range]
  · rw [readDisplay, List.getElem?_map, List.getElem?_range (by omega), Option.map_some, hx, hy]

end Sys2Proof
end

section
/-! PROOFS. The key skips and the key wait, and what the sound timer and the key flags have no part in
(45_keypad_timers.md R220 to R226; 10_state.md §1, §6). -/

namespace Sys2Proof

open Machine

/-! ## The key skips -/

theorem keyIndex_of_lt {b : Byte} (h : b.toNat < 16) : keyIndex b = some ⟨b.toNat, h⟩ := dif_pos h

theorem keyIndex_of_gt {b : Byte} (h : b.toNat > 15) : keyIndex b = none := (keyIndex_eq_none_iff b).2 h

theorem formatRimm_classE_eq_ofNat (x : Nibble) (nn : Byte) :
    formatRimm 0xE x nn = BitVec.ofNat 16 (0xE000 + nn.toNat + x.toNat * 256) := by
  have := x.isLt
  have := nn.isLt
  apply BitVec.eq_of_toNat_eq
  rw [toNat_formatRimm, BitVec.toNat_ofNat, show (0xE : Nibble).toNat = 14 from rfl]
  omega

/-- Settles O42: a byte below 16 selects a key to skip on, and a byte above 15 none. -/
theorem keySkips : Obligations.KeySkips := by
  intro x s
  constructor
  · intro hlt
    have hkey := keyIndex_of_lt hlt
    constructor
    · obtain ⟨t, hexec, hframe, hpc⟩ := skip_completes (exec_skp_of_key hkey)
      exact ⟨t, hexec, hframe, hpc⟩
    · obtain ⟨t, hexec, hframe, hpc⟩ := skip_completes (exec_sknp_of_key hkey)
      refine ⟨t, hexec, hframe, hpc.trans ?_⟩
      cases s.readKey ⟨(s.readV x).toNat, hlt⟩ <;> rfl
  · intro hgt
    have hkey := keyIndex_of_gt hgt
    rw [exec_skp_of_no_key hkey, exec_sknp_of_no_key hkey]
    simp only [encode, formatRimm_classE_eq_ofNat]
    exact ⟨raises_raise _ s, raises_raise _ s⟩

/-! ## The key wait -/

theorem KeepsAllBut.setRun {p : Component → Prop} {s t : State} (h : KeepsAllBut p s t) (hp : p .run) (r : RunState) :
    KeepsAllBut p s (t.setRun r) := by
  intro c hc
  have hsame : Component.same s t c := h c hc
  cases c
  case run => exact absurd hp hc
  all_goals exact hsame

/-- R255: the key press that ends a wait. -/
theorem keyPress_ends_wait {s : State} (h : s.run = .waitingForKey) (k : Fin 16) :
    ∃ u, keyPress k.val s = .next u ∧ (u.readV s.waitX).toNat = k.val ∧ u.readKey k = true ∧ u.run = .running ∧
      u.pc = s.pc ∧ KeepsAllBut (either (either (only (.reg s.waitX)) (only (.key k))) (only .run)) s u := by
  have hreg : ((s.writeKey k true).writeV s.waitX (BitVec.ofNat 8 k.val)).readV s.waitX = BitVec.ofNat 8 k.val :=
    (State.readV_writeV _ _ _ _).trans (if_pos rfl)
  have hval : (BitVec.ofNat 8 k.val).toNat = k.val := Nat.mod_eq_of_lt (by omega)
  have hframe : KeepsAllBut (either (either (only (.reg s.waitX)) (only (.key k))) (only .run)) s (s.writeKey k true) :=
    (keepsAllBut_writeKey s k true).mono fun _ hc => .inl (.inr hc)
  have hkey : (s.writeKey k true).readKey k = true := (s.readKey_writeKey k k true).trans (if_pos rfl)
  exact ⟨_, keyPress_of_waiting h k, (congrArg BitVec.toNat hreg).trans hval, hkey, rfl, rfl,
    (hframe.writeV (.inl (.inl rfl)) _).setRun (.inr rfl) _⟩

/-- Settles O43: `FX0A` enters the wait, a waiting Step does nothing, and a key press ends it. -/
theorem keyWaitSuspendsUntilKeyPress : Obligations.KeyWaitSuspendsUntilKeyPress := by
  intro x s
  exact ⟨(s.enterWait x).advance, rfl, rfl, rfl, rfl, (keepsAllBut_enterWait s x).setPc _, step_waiting rfl,
    keyPress_ends_wait (s := (s.enterWait x).advance) rfl⟩

/-! ## The sound timer and the key flags -/

/-- The state with another sound timer and other key flags. -/
def withSoundAndKeys (b : Byte) (ks : Vector Bool 16) (s : State) : State := { s with st := b, key := ks }

section SoundAndKeys

variable (b : Byte) (ks : Vector Bool 16) {s u : State} {a : Word16}

theorem pop_withSoundAndKeys (h : s.pop = some (a, u)) :
    (withSoundAndKeys b ks s).pop = some (a, withSoundAndKeys b ks u) := by
  obtain ⟨hsp, rfl, rfl⟩ := (s.pop_eq_some a u).1 h
  exact (State.pop_eq_some _ _ _).2 ⟨hsp, rfl, rfl⟩

theorem push_withSoundAndKeys (h : s.push a = some u) :
    (withSoundAndKeys b ks s).push a = some (withSoundAndKeys b ks u) := by
  obtain ⟨hsp, rfl⟩ := (s.push_eq_some a u).1 h
  exact (State.push_eq_some _ _ _).2 ⟨hsp, rfl⟩

variable (s)

/-- An instruction that completes does the same from the state with another sound timer and other keys. -/
theorem exec_withSoundAndKeys {i : Instr} (hsound : ∀ x, i ≠ .setSound x) (hskp : ∀ x, i ≠ .skp x)
    (hsknp : ∀ x, i ≠ .sknp x) :
    RaisesOr (fun t => exec i (withSoundAndKeys b ks s) = .next (withSoundAndKeys b ks t)) s (exec i s) := by
  cases i
  case setSound x => exact absurd rfl (hsound x)
  case skp x => exact absurd rfl (hskp x)
  case sknp x => exact absurd rfl (hsknp x)
  case ret => exact .ret fun a u hpop => exec_ret_of_pop (pop_withSoundAndKeys b ks hpop)
  case call nnn => exact .call fun u hpush => exec_call_of_push nnn (push_withSoundAndKeys b ks hpush)
  case drw | storeBcd | storeRegs | loadRegs => exact .ite fun hb => if_pos hb
  all_goals exact .next rfl

end SoundAndKeys

/-- Settles O45: the two states are executed alike, whatever the sound timer and the key flags. -/
theorem soundTimerAndKeysUnread : Obligations.SoundTimerAndKeysUnread := by
  intro i s t b ks hsound hskp hsknp h hrun
  exact (exec_withSoundAndKeys b ks s hsound hskp hsknp).of_next h hrun

end Sys2Proof
end

section
/-! PROOFS. What each transaction of the host changes and leaves alone (60_exceptions.md R252 to R258; 20_memory.md R72;
70_reset_and_hazards.md R289). -/

namespace Sys2Proof

open Machine

/-! ## The timers, the key flags and `dirty` -/

theorem tickSound_of_ne {s : State} (h : s.run ≠ .faulted) : tickSound s = .next (s.setSt (countDown s.st)) :=
  s.unlessFaulted_of_ne h _

theorem tickDelay_of_ne {s : State} (h : s.run ≠ .faulted) : tickDelay s = .next (s.setDt (countDown s.dt)) :=
  s.unlessFaulted_of_ne h _

/-- Settles O47: each tick writes its own timer and reads no other component but the run state. -/
theorem tickSoundCountsDownAndCommutes : Obligations.TickSoundCountsDownAndCommutes := by
  intro s hrun
  exact ⟨_, _, _, tickSound_of_ne hrun, toNat_countDown s.st, rfl, keepsAllBut_setSt s (countDown s.st),
    tickDelay_of_ne hrun, tickDelay_of_ne hrun, tickSound_of_ne hrun⟩

/-- Settles O49: a running core has no wait to end, and a code above 15 is looked at before the core is. -/
theorem keyPressWhileRunning : Obligations.KeyPressWhileRunning := by
  refine ⟨fun s k hrun => ?_, fun s k hk => ⟨keyPress_of_gt s hk, keyRelease_of_gt s hk⟩⟩
  have hkey : (s.writeKey k true).readKey k = true := (s.readKey_writeKey k k true).trans (if_pos rfl)
  exact ⟨_, keyPress_of_running hrun k, hkey, rfl, keepsAllBut_writeKey s k true⟩

/-- Settles O50: past the gate ClearDirty is a write of `dirty`. -/
theorem clearDirtyClearsFlag : Obligations.ClearDirtyClearsFlag := by
  intro s hrun
  exact ⟨_, s.unlessFaulted_of_ne hrun _, rfl, rfl, (KeepsAllBut.refl (only .dirty) s).setDirty rfl false⟩

/-! ## The faulted core -/

theorem transact_of_faulted {s : State} (h : s.run = .faulted) {a : Transaction} (hreset : ∀ image, a ≠ .reset image) :
    ∃ r, transact a s = .refused r := by
  cases a
  case reset image => exact absurd rfl (hreset image)
  case step => exact ⟨_, step_faulted h⟩
  case tickDelay | tickSound | clearDirty => exact ⟨_, State.unlessFaulted_of_eq h _⟩
  case keyPress k =>
    rcases exists_fin_or_gt k with ⟨k, rfl⟩ | hk
    · exact ⟨_, (keyPress_of_lt s k).trans (State.unlessFaulted_of_eq h _)⟩
    · exact ⟨_, keyPress_of_gt s hk⟩
  case keyRelease k =>
    rcases exists_fin_or_gt k with ⟨k, rfl⟩ | hk
    · exact ⟨_, (keyRelease_of_lt s k).trans (State.unlessFaulted_of_eq h _)⟩
    · exact ⟨_, keyRelease_of_gt s hk⟩

/-- Settles O51: every other transaction meets the gate, and Reset does not look at the core. -/
theorem faultedLeftOnlyByReset : Obligations.FaultedLeftOnlyByReset := by
  intro s hrun
  refine ⟨fun a hreset => transact_of_faulted hrun hreset, fun image hfits => ?_⟩
  have hentry : 0x050 ≤ Config.entry ∧ Config.entry ≤ 0xFFF := by decide
  exact ⟨_, resetWith_of_fits Config.font s.free ⟨hentry.1, hentry.2, hfits⟩, rfl, rfl⟩

/-! ## What stays -/

/-- Settles O52: of the effects on a waiting core only that of a key press touches the run state, `wait_x` or `pc`. -/
theorem waitEndsOnlyByKeyPressOrReset : Obligations.WaitEndsOnlyByKeyPressOrReset := by
  intro a s t hrun h hkey hreset
  by_cases hstep : a = .step
  · subst hstep
    cases (step_waiting hrun).symm.trans h
    exact ⟨hrun, rfl, rfl⟩
  · cases hostEffect_of_transact h hstep hreset
    case keyPressRunning k _ => exact absurd rfl (hkey k.val)
    case keyPressWaiting k _ => exact absurd rfl (hkey k.val)
    all_goals exact ⟨hrun, rfl, rfl⟩

/-- Settles O53: the effects write timers, key flags, `dirty` and the run state, and one a register. -/
theorem hostTransactionsLeaveCoreAlone : Obligations.HostTransactionsLeaveCoreAlone := by
  intro a s t h hstep hreset
  cases hostEffect_of_transact h hstep hreset
  case keyPressWaiting k hrun =>
    refine ⟨fun _ => rfl, rfl, rfl, rfl, rfl, fun r hr => ⟨hrun, ?_, k.val, rfl⟩⟩
    by_contra hne
    exact hr ((State.readV_writeV _ _ _ _).trans (if_neg hne))
  all_goals exact ⟨fun _ => rfl, rfl, rfl, rfl, rfl, fun _ hr => absurd rfl hr⟩

/-! ## The delay timer -/

/-- A completed instruction that changes the delay timer is `FX15`. -/
theorem exec_changes_dt {s t : State} {i : Instr} (h : exec i s = .next t) (hrun : t.run ≠ .faulted)
    (hdt : t.dt ≠ s.dt) : ∃ x, i = .setDelay x ∧ t.dt = s.readV x := by
  have hframe : ¬ Component.writtenBy .delay i = false := fun hw =>
    hdt (onlyListedInstructionsWrite i s t .delay h hrun hw)
  cases i
  case setDelay x =>
    cases h
    exact ⟨x, rfl, rfl⟩
  all_goals exact absurd rfl hframe

theorem step_changes_dt {s t : State} (h : step s = .next t) (hrun : t.run ≠ .faulted) (hdt : t.dt ≠ s.dt) :
    ∃ x, s.fetch = some (encode (.setDelay x)) ∧ t.dt = s.readV x := by
  rcases step_cases h with ⟨-, rfl⟩ | ⟨-, -, rfl⟩ | ⟨-, op, e, -, -, rfl⟩ | ⟨-, op, i, hfetch, hdec, hexec⟩
  · exact absurd rfl hdt
  · exact absurd rfl hrun
  · exact absurd rfl hrun
  · obtain ⟨x, rfl, hx⟩ := exec_changes_dt hexec hrun hdt
    exact ⟨x, by rw [hfetch, encode_of_decodeWord hdec], hx⟩

theorem toNat_countDown_of_ne {b : Byte} (h : countDown b ≠ b) : (countDown b).toNat + 1 = b.toNat := by
  have hval := toNat_countDown b
  have hne : (countDown b).toNat ≠ b.toNat := fun e => h (BitVec.eq_of_toNat_eq e)
  split at hval <;> omega

/-- Settles O54: of the effects of the host only TickDelay writes `dt`, and of the instructions only `FX15`. -/
theorem delayTimerChangesOnlySo : Obligations.DelayTimerChangesOnlySo := by
  intro a s t h hrun hdt
  by_cases hstep : a = .step
  · subst hstep
    exact .inr (.inl ⟨rfl, step_changes_dt h hrun hdt⟩)
  · by_cases hreset : ∃ image, a = .reset image
    · exact .inr (.inr hreset)
    · cases hostEffect_of_transact h hstep fun image e => hreset ⟨image, e⟩
      case tickDelay => exact .inl ⟨rfl, toNat_countDown_of_ne hdt⟩
      all_goals exact absurd rfl hdt

end Sys2Proof
end
